-- ==== Sys2Proof/Word.lean ====
section
/-! DEFINITION. The word and byte of KRC-FFE: every register is 32 bits wide (10_state.md R21), memory is
byte-addressed (20_memory.md R60). -/

namespace Sys2Proof

/-- A host-visible register, a command word, an operand (10_state.md R21, 30_encoding.md R90). -/
abbrev Word := BitVec 32

/-- The smallest addressable unit of memory (20_memory.md R60). -/
abbrev Byte := BitVec 8

end Sys2Proof
end

