-- ==== Sys2Proof/Syntax.lean ====
section
/-! DEFINITION. The commands of KRC-FFE (30_encoding.md R93), one constructor per row of spec/opcode_table.json.
A command carries no immediate: its operands are the latched A0-A3 (R92). -/

namespace Sys2Proof

/-- The two fields in scope, selected by bit F of the command word (00_scope.md R3). -/
inductive Field where
  /-- GF(2^8): F = 0. -/
  | gf8
  /-- GF(2^16): F = 1. -/
  | gf16
  deriving DecidableEq, Repr

/-- The sixteen commands of the opcode map (30_encoding.md R93). -/
inductive Instr where
  | nop
  | gfAdd (f : Field)
  | gfMul (f : Field)
  | gfDiv (f : Field)
  | gfInv (f : Field)
  | rowAxpy (f : Field)
  | rowScale (f : Field)
  | genSeed
  | genDensity
  | genFill (f : Field)
  | genFillPartial (f : Field)
  | decInit (f : Field)
  | decConsume (f : Field)
  | decConsumeSys (f : Field)
  | decUpdateStatus (f : Field)
  | decQuery (f : Field)
  deriving DecidableEq, Repr

end Sys2Proof
end

