-- ==== Sys2Proof/Config.lean ====
section
/-! DEFINITION. What an implementation or a platform fixes (00_scope.md R6, 10_state.md R20), and the values the spec
leaves open ("any value", 93_implementation_defined.md part 2). -/

namespace Sys2Proof

/-- A run of bytes: a start address and a length in bytes (00_scope.md R9 calls it a buffer). -/
structure Region where
  base : Nat
  len  : Nat
  deriving DecidableEq, Repr

/-- The parameters of one KRC-FFE in its system (00_scope.md R6; log entries 1 and 2).
They are plain data, so that a statement about every state is a statement about every configuration. -/
structure Config where
  /-- NMAX, the largest generation size a DEC_INIT accepts; OPEN, 1 to 65535 (R6, D42). -/
  nmax    : Nat
  /-- POLY8, the reduction polynomial of GF(2^8), bit k the coefficient of x^k (40_gf_arith.md R110). -/
  poly8   : Nat
  /-- POLY16, the reduction polynomial of GF(2^16). -/
  poly16  : Nat
  /-- REG_BASE, the host address of the 256-byte register window (10_state.md R21). -/
  regBase : Nat
  /-- MEM_OK: the addresses that answer the engine without an error (20_memory.md R66). -/
  backed  : List Region
  /-- The addresses whose reads have side effects, outside the rules for a command (20_memory.md R67). -/
  devices : List Region
  deriving DecidableEq, Repr

/-- The reference configuration of the spec's own vectors: NMAX = 256 (00_scope.md R6), the default polynomials
(40_gf_arith.md R110), every address backed and no device region. REG_BASE is the platform's: DESIGN CHOICE 0, as are
the full MEM_OK and the empty device list (log entry 1). -/
def Config.reference : Config :=
  { nmax := 256, poly8 := 0x11D, poly16 := 0x1100B, regBase := 0, backed := [⟨0, 2 ^ 32⟩], devices := [] }

/-- FREE VALUE (log entry 10): the `n`-th time the machine meets "any value", the byte at address `a`.
It has no body: nothing can be proved of its value. -/
opaque Config.anyByte (n a : Nat) : Byte

end Sys2Proof
end

