-- ==== Sys2Proof/WellFormed.lean ====
section
/-! DEFINITION. Which commands and which configurations are well formed. -/

namespace Sys2Proof

/-- Every term of `Instr` is a command of 30_encoding.md R93: a command carries no immediate and no register number
(R92), and both values of F are legal wherever the constructor has one (R94). What can be ill-formed is a command WORD
(`legalWord`, Decode.lean) and a configuration (`Config.wellFormed`). -/
def Instr.wellFormed : Instr → Bool
  | .nop => true
  | .gfAdd _ => true
  | .gfMul _ => true
  | .gfDiv _ => true
  | .gfInv _ => true
  | .rowAxpy _ => true
  | .rowScale _ => true
  | .genSeed => true
  | .genDensity => true
  | .genFill _ => true
  | .genFillPartial _ => true
  | .decInit _ => true
  | .decConsume _ => true
  | .decConsumeSys _ => true
  | .decUpdateStatus _ => true
  | .decQuery _ => true

/-- The remainder of the polynomial `r`, of degree below `deg + n`, by `d`, of degree `deg`. -/
def polyRem (deg d r : Nat) : Nat → Nat
  | 0 => r
  | n + 1 => polyRem deg d (if r.testBit (deg + n) then r ^^^ (d <<< n) else r) n

/-- `p` is irreducible of degree `w` over GF(2): its degree is `w`, and no polynomial of a degree from 1 to w/2
divides it (40_gf_arith.md R110: "must require them irreducible of degree w"). -/
def irreducible (w p : Nat) : Bool :=
  decide (p >>> w = 1) &&
    (List.range (w / 2)).all fun k =>
      (List.range (2 ^ (k + 1))).all fun low =>
        decide (polyRem (k + 1) (2 ^ (k + 1) + low) p (w - k) ≠ 0)

/-- The configurations the spec admits: 1 ≤ NMAX ≤ 65535 (00_scope.md R6), REG_BASE aligned to 256 (10_state.md R21),
irreducible polynomials of degrees 8 and 16 (40_gf_arith.md R110). -/
def Config.wellFormed (c : Config) : Bool :=
  decide (1 ≤ c.nmax) && decide (c.nmax ≤ 65535) && decide (c.regBase % 256 = 0) &&
    irreducible 8 c.poly8 && irreducible 16 c.poly16

end Sys2Proof
end

