-- ==== Sys2Proof/Decode.lean ====
section
/-! DEFINITION. The command word (30_encoding.md R90-R95): its fields, the decoder, the encoder, and the match/mask
form of the opcode map. -/

namespace Sys2Proof

/-- OP, bits 7:0 (R91). -/
def wordOp (w : Word) : Nat := w.toNat % 256

/-- F, bit 8 (R91). -/
def wordF (w : Word) : Bool := w.toNat.testBit 8

/-- RSV, bits 31:9 (R91). -/
def wordRsv (w : Word) : Nat := w.toNat / 512

/-- F = 0 selects GF(2^8), F = 1 selects GF(2^16) (R91). -/
def fieldOfBit : Bool → Field
  | false => .gf8
  | true => .gf16

/-- A command without a field: F must be 0 (R94). -/
def withoutField (f : Bool) (i : Instr) : Option Instr := if f then none else some i

/-- The opcode map of R93: the command of an opcode and a bit F. Every opcode not listed is reserved (R95). -/
def selectCommand (op : Nat) (f : Bool) : Option Instr :=
  match op with
  | 0x00 => withoutField f .nop
  | 0x01 => some (.gfAdd (fieldOfBit f))
  | 0x02 => some (.gfMul (fieldOfBit f))
  | 0x03 => some (.gfDiv (fieldOfBit f))
  | 0x04 => some (.gfInv (fieldOfBit f))
  | 0x10 => some (.rowAxpy (fieldOfBit f))
  | 0x11 => some (.rowScale (fieldOfBit f))
  | 0x20 => withoutField f .genSeed
  | 0x21 => withoutField f .genDensity
  | 0x22 => some (.genFill (fieldOfBit f))
  | 0x23 => some (.genFillPartial (fieldOfBit f))
  | 0x30 => some (.decInit (fieldOfBit f))
  | 0x31 => some (.decConsume (fieldOfBit f))
  | 0x32 => some (.decConsumeSys (fieldOfBit f))
  | 0x33 => some (.decUpdateStatus (fieldOfBit f))
  | 0x34 => some (.decQuery (fieldOfBit f))
  | _ => none

/-- The decoder (R94): reserved bits must be 0, then OP and F select the command; `none` is an illegal word (R95). -/
def decode (w : Word) : Option Instr :=
  if wordRsv w = 0 then selectCommand (wordOp w) (wordF w) else none

/-- The word with opcode `op` and field `f` (R91). -/
def commandWord (op : Nat) : Field → Word
  | .gf8 => BitVec.ofNat 32 op
  | .gf16 => BitVec.ofNat 32 (op + 256)

/-- The encoder: the one word of each command (R93). -/
def encode : Instr → Word
  | .nop => commandWord 0x00 .gf8
  | .gfAdd f => commandWord 0x01 f
  | .gfMul f => commandWord 0x02 f
  | .gfDiv f => commandWord 0x03 f
  | .gfInv f => commandWord 0x04 f
  | .rowAxpy f => commandWord 0x10 f
  | .rowScale f => commandWord 0x11 f
  | .genSeed => commandWord 0x20 .gf8
  | .genDensity => commandWord 0x21 .gf8
  | .genFill f => commandWord 0x22 f
  | .genFillPartial f => commandWord 0x23 f
  | .decInit f => commandWord 0x30 f
  | .decConsume f => commandWord 0x31 f
  | .decConsumeSys f => commandWord 0x32 f
  | .decUpdateStatus f => commandWord 0x33 f
  | .decQuery f => commandWord 0x34 f

/-- The field a command names (30_encoding.md R91). -/
def Instr.fieldOf : Instr → Option Field
  | .nop => none
  | .gfAdd f => some f
  | .gfMul f => some f
  | .gfDiv f => some f
  | .gfInv f => some f
  | .rowAxpy f => some f
  | .rowScale f => some f
  | .genSeed => none
  | .genDensity => none
  | .genFill f => some f
  | .genFillPartial f => some f
  | .decInit f => some f
  | .decConsume f => some f
  | .decConsumeSys f => some f
  | .decUpdateStatus f => some f
  | .decQuery f => some f

/-- A row of the opcode map in match/mask form (R94): the bits of `mask` must equal `pattern`. -/
structure OpcodeRow where
  mask    : Word
  pattern : Word
  deriving DecidableEq, Repr

/-- The sixteen rows of spec/opcode_table.json, in its order. -/
def opcodeTable : List OpcodeRow :=
  [⟨0xFFFFFFFF, 0x00⟩, ⟨0xFFFFFEFF, 0x01⟩, ⟨0xFFFFFEFF, 0x02⟩, ⟨0xFFFFFEFF, 0x03⟩, ⟨0xFFFFFEFF, 0x04⟩] ++
  [⟨0xFFFFFEFF, 0x10⟩, ⟨0xFFFFFEFF, 0x11⟩] ++
  [⟨0xFFFFFFFF, 0x20⟩, ⟨0xFFFFFFFF, 0x21⟩, ⟨0xFFFFFEFF, 0x22⟩, ⟨0xFFFFFEFF, 0x23⟩] ++
  [⟨0xFFFFFEFF, 0x30⟩, ⟨0xFFFFFEFF, 0x31⟩, ⟨0xFFFFFEFF, 0x32⟩, ⟨0xFFFFFEFF, 0x33⟩, ⟨0xFFFFFEFF, 0x34⟩]

/-- The word matches the row. -/
def OpcodeRow.covers (r : OpcodeRow) (w : Word) : Bool := w &&& r.mask == r.pattern

/-- The word is legal: some row of the opcode map covers it (R94, R95). -/
def legalWord (w : Word) : Bool := opcodeTable.any fun r => r.covers w

/-- What the decoder reads from a table row's word. A command is one 32-bit word (R90), so a wider one is none. -/
def decodeTableWord (nbits w : Nat) : Option Instr :=
  if nbits ≤ 32 then decode (BitVec.ofNat 32 (w % 2 ^ nbits)) else none

end Sys2Proof
end

