-- ==== Sys2Proof/Machine/Arith.lean ====
section
/-! DEFINITION. The fields GF(2^8) and GF(2^16) (40_gf_arith.md R110-R114). An element is a natural number below 2^w,
bit k the coefficient of x^k (R110). -/

namespace Sys2Proof

/-- w, the element width in bits (00_scope.md R3). -/
def Field.width : Field → Nat
  | .gf8 => 8
  | .gf16 => 16

/-- E, the element size in bytes (00_scope.md R3). -/
def Field.bytes : Field → Nat
  | .gf8 => 1
  | .gf16 => 2

/-- P_w, the reduction polynomial of the field (40_gf_arith.md R110). -/
def Config.poly (c : Config) : Field → Nat
  | .gf8 => c.poly8
  | .gf16 => c.poly16

namespace Machine

/-- gf_add: bitwise exclusive OR (R111). -/
def gfAdd (a b : Nat) : Nat := a ^^^ b

/-- The carry-less product of `a` and the low `k` bits of `b`: the first loop of R112. -/
def clmul (a b : Nat) : Nat → Nat
  | 0 => 0
  | k + 1 => if b.testBit k then clmul a b k ^^^ (a <<< k) else clmul a b k

/-- The second loop of R112: bits w+n-1 down to w of `r` are cleared by multiples of the polynomial `p`. -/
def reduceFrom (w p r : Nat) : Nat → Nat
  | 0 => r
  | n + 1 => reduceFrom w p (if r.testBit (w + n) then r ^^^ (p <<< n) else r) n

/-- gf_mul (R112): the product modulo P_w. -/
def gfMul (c : Config) (f : Field) (a b : Nat) : Nat :=
  reduceFrom f.width (c.poly f) (clmul a b f.width) (f.width - 1)

/-- `acc` times the product of `t^2, t^4, …, t^(2^k)`. -/
def gfSquares (c : Config) (f : Field) : Nat → Nat → Nat → Nat
  | 0, _, acc => acc
  | k + 1, t, acc => gfSquares c f k (gfMul c f t t) (gfMul c f acc (gfMul c f t t))

/-- gf_inv (R113): a^(2^w - 2), the power taken with gf_mul; the exponent is 2 + 4 + … + 2^(w-1). The spec defines no
inverse of 0; that this function has a value there, 0, is the model's choice, and no command evaluates it at 0 (log
entry 23). -/
def gfInv (c : Config) (f : Field) (a : Nat) : Nat := gfSquares c f (f.width - 1) a 1

/-- gf_div (R114): a times the inverse of b; the spec defines no quotient by 0 (log entry 23). -/
def gfDiv (c : Config) (f : Field) (a b : Nat) : Nat := gfMul c f a (gfInv c f b)

end Machine

end Sys2Proof
end

