-- ==== Sys2Proof/Machine/State.lean ====
section
/-! DEFINITION. The state of one KRC-FFE instance (10_state.md R20), its reset values (R44), the steps the host and
the platform can take (R11, 20_memory.md R79), and the reasons a step can stop. -/

namespace Sys2Proof.Machine

/-- The error codes of 60_exceptions.md R241. -/
inductive ErrorCode where
  | illegal
  | range
  | align
  | len
  | overlap
  | noInit
  | field
  | density
  | div0
  | matrix
  | bus
  deriving DecidableEq, Repr

/-- The status of one original symbol (10_state.md R39). -/
inductive SymbolStatus where
  | missing
  | partiallyDecoded
  | decoded
  deriving DecidableEq, Repr

/-- The operand registers A0-A3 (10_state.md R23). -/
structure Operands where
  a0 : Word
  a1 : Word
  a2 : Word
  a3 : Word
  deriving DecidableEq, Repr

/-- The stored bits of CTRL (10_state.md R28). -/
structure Ctrl where
  /-- Bit 0, IE: interrupt enable. -/
  ie     : Bool
  /-- Bit 1, SU: status updater. -/
  su     : Bool
  /-- Bit 2, SYSDUP: policy for a duplicate systematic symbol. -/
  sysdup : Bool
  deriving DecidableEq, Repr

/-- The stored bits of STATUS that belong to the engine (10_state.md R30); BUSY is `eng`, the decoder's bits are in
`Decoder`, COMPLETE and PCOMPLETE are computed by a read (R36). -/
structure Status where
  done    : Bool
  err     : Bool
  cmdLost : Bool
  /-- ERRCODE, bits 23:16. -/
  errCode : BitVec 8
  deriving DecidableEq, Repr

/-- The decoder: its STATUS bits, its registers, and the internal arrays (10_state.md R33-R39).
`piv` and `stat` have NMAX entries (R38). -/
structure Decoder where
  init    : Bool
  dep     : Bool
  dfield  : Field
  dn      : Word
  ds      : Word
  dcoef   : Word
  dsym    : Word
  rank    : Word
  cntMiss : Word
  cntPart : Word
  cntDec  : Word
  piv     : List Bool
  stat    : List SymbolStatus
  deriving DecidableEq, Repr

/-- The generator (10_state.md R37). -/
structure Generator where
  gstate : BitVec 64
  gdens  : Word
  gfull  : Bool
  gt     : Word
  deriving DecidableEq, Repr

/-- What the engine copies when a command is issued (44_engine_control.md R231). -/
structure Latched where
  cmd    : Word
  ops    : Operands
  su     : Bool
  sysdup : Bool
  deriving DecidableEq, Repr

/-- The engine's sequencing state (10_state.md R40). -/
inductive Engine where
  | idle
  | busy (l : Latched)
  deriving DecidableEq, Repr

/-- One step of the world outside the engine, or the engine's own turn (00_scope.md R11, 44_engine_control.md R235:
any interleaving of host steps before the engine's step; log entry 4). -/
inductive Input where
  /-- Nothing from outside: the engine moves. -/
  | engine
  /-- A host read of `size` bytes on the register port, at a host address (10_state.md R21). -/
  | regRead (addr size : Nat)
  /-- A host write of `size` bytes on the register port, at a host address. -/
  | regWrite (addr size : Nat) (value : Word)
  /-- A read of one memory byte by the host, or by another agent on the memory (60_exceptions.md R256). -/
  | memRead (addr : Nat)
  /-- A write of one memory byte by the host, or by another agent on the memory. -/
  | memWrite (addr : Nat) (value : Byte)
  /-- The reset input rst_n becomes asserted or deasserted (70_reset_and_hazards.md R271). -/
  | resetPin (asserted : Bool)
  deriving DecidableEq, Repr

/-- Memory: address and byte pairs in one canonical form (`Memory.wf`, Machine/Ops.lean). -/
abbrev Memory := List Host.Cell

/-- The state of KRC-FFE (10_state.md R20), its configuration, and the model's own fields. -/
structure State where
  /-- The parameters (00_scope.md R6); no step changes them. -/
  config   : Config
  ctrl     : Ctrl
  status   : Status
  ops      : Operands
  /-- RES (10_state.md R24). -/
  res      : Word
  /-- LASTCMD, what a read of CMD returns (10_state.md R25). -/
  lastCmd  : Word
  /-- ERRCMD (10_state.md R32). -/
  errCmd   : Word
  dec      : Decoder
  gen      : Generator
  eng      : Engine
  /-- The system memory (20_memory.md R60). -/
  memory   : Memory
  /-- The reset input is asserted (70_reset_and_hazards.md R271). -/
  inReset  : Bool
  /-- MODEL's own: what the outside does next, oldest first (log entry 4). -/
  inputs   : List Input
  /-- MODEL's own: what the host's last access got back (log entry 6). -/
  hostData : Option Word
  /-- MODEL's own: the host broke 20_memory.md R73 for the command in flight (log entry 8). -/
  raced    : Bool
  /-- MODEL's own: how many times a free value was drawn (log entry 10). -/
  fresh    : Nat
  deriving DecidableEq, Repr

/-- Why the machine stops. No command ever stops it: a command's error is a next state (60_exceptions.md R244). -/
inductive Fault where
  /-- Raised by a host memory access (`Input.memRead`, `Input.memWrite`) to an address outside MEM_OK: no byte is
  there (20_memory.md R66), and the spec gives the host's access no effect. Safe (log entry 14). -/
  | unbackedHostAccess
  deriving DecidableEq, Repr

/-- Why the model gives no step. -/
inductive Refusal where
  /-- Raised by `exec` for an instruction without a meaning; no instruction of this model. Safe. -/
  | notModelled (mnemonic : String)
  /-- Raised by a register access that is not an aligned 32-bit one: "A model gives such an access no step"
  (10_state.md R21). Safe (log entry 13). -/
  | portAccess
  /-- Raised by a register access outside the block's window: another device answers it. Safe (log entry 13). -/
  | outsideWindow
  /-- Raised by a host memory access to a device region, whose behaviour the spec does not give (20_memory.md R67).
  Safe (log entry 14). -/
  | deviceAccess
  deriving DecidableEq, Repr

/-- CTRL after reset (10_state.md R44). -/
def Ctrl.reset : Ctrl := { ie := false, su := false, sysdup := false }

/-- STATUS after reset (10_state.md R44). -/
def Status.reset : Status := { done := false, err := false, cmdLost := false, errCode := 0 }

/-- A0-A3 after reset (10_state.md R44). -/
def Operands.reset : Operands := { a0 := 0, a1 := 0, a2 := 0, a3 := 0 }

/-- The decoder after reset (10_state.md R44), with arrays of `nmax` entries (R38). -/
def Decoder.reset (nmax : Nat) : Decoder :=
  { init := false, dep := false, dfield := .gf8, dn := 0, ds := 0, dcoef := 0, dsym := 0, rank := 0,
    cntMiss := 0, cntPart := 0, cntDec := 0,
    piv := List.replicate nmax false, stat := List.replicate nmax .missing }

/-- The generator after reset: the state of seed 0 and density 1.0 (10_state.md R37, R44). -/
def Generator.reset : Generator :=
  { gstate := 0x00000000FFFFFFFF, gdens := 0x3F800000, gfull := true, gt := 0 }

/-- The machine right after a hardware reset (10_state.md R44, 70_reset_and_hazards.md R271), in the reference
configuration, with no memory byte listed and nothing from the outside pending. -/
def State.reset : State :=
  { config := Config.reference, ctrl := Ctrl.reset, status := Status.reset, ops := Operands.reset,
    res := 0, lastCmd := 0, errCmd := 0,
    dec := Decoder.reset Config.reference.nmax, gen := Generator.reset,
    eng := .idle, memory := [], inReset := false,
    inputs := [], hostData := none, raced := false, fresh := 0 }

end Sys2Proof.Machine
end

