-- ==== Sys2Proof/Machine/Ops.lean ====
section
/-! DEFINITION. The shared operations: loops, regions, memory (20_memory.md), issue and completion
(44_engine_control.md R231-R233), error entry and return (60_exceptions.md R244, R247), free values. -/

namespace Sys2Proof.Machine

/-- `for i in 0..n-1` (00_scope.md R8): increasing order, stopping at the first error; n = 0 runs nothing. -/
def loop {σ : Type} (body : Nat → σ → Except ErrorCode σ) : Nat → σ → Except ErrorCode σ
  | 0, x => .ok x
  | n + 1, x => (loop body n x).bind (body n)

/-- The first error whose condition holds (60_exceptions.md R243). -/
def firstError : List (Bool × ErrorCode) → Option ErrorCode
  | [] => none
  | (b, e) :: rest => if b then some e else firstError rest

/-! ### Regions (00_scope.md R9) -/

/-- The byte at `a` belongs to the region. -/
def regionHas (r : Region) (a : Nat) : Bool := decide (r.base ≤ a) && decide (a < r.base + r.len)

/-- The byte at `a` belongs to one of the regions. -/
def regionsHave (rs : List Region) (a : Nat) : Bool := rs.any fun r => regionHas r a

/-- In range: start + length ≤ 2^32, computed without wrap-around (R9). -/
def inRange (r : Region) : Bool := decide (r.base + r.len ≤ 2 ^ 32)

/-- The byte ranges intersect. -/
def regionsMeet (r q : Region) : Bool := decide (max r.base q.base < min (r.base + r.len) (q.base + q.len))

/-- Partial overlap: the ranges intersect, both lengths are nonzero and the start addresses differ (R9). -/
def partialOverlap (r q : Region) : Bool :=
  regionsMeet r q && decide (r.len ≠ 0) && decide (q.len ≠ 0) && decide (r.base ≠ q.base)

/-! ### Memory (20_memory.md) -/

/-- What an unlisted byte reads as: DESIGN CHOICE 0 (log entry 3). -/
def Memory.unlisted : Byte := 0

/-- The byte at an address. -/
def Memory.read : Memory → Nat → Byte
  | [], _ => Memory.unlisted
  | (k, x) :: rest, a => if k = a then x else Memory.read rest a

/-- Set the byte at an address, keeping the list sorted and free of unlisted values. -/
def Memory.put (a : Nat) (b : Byte) : Memory → Memory
  | [] => if b = Memory.unlisted then [] else [(a, b)]
  | (k, x) :: rest =>
    if a < k then (if b = Memory.unlisted then (k, x) :: rest else (a, b) :: (k, x) :: rest)
    else if a = k then (if b = Memory.unlisted then rest else (a, b) :: rest)
    else (k, x) :: Memory.put a b rest

/-- Store one byte. There is no byte at or above 2^32 (R60): a store there changes nothing (the machine makes none,
`memOk`). -/
def Memory.write (m : Memory) (a : Nat) (b : Byte) : Memory := if a < 2 ^ 32 then Memory.put a b m else m

/-- The canonical form: addresses strictly rising and below 2^32, no byte equal to what an unlisted one reads as. -/
abbrev Memory.wf (m : Memory) : Prop :=
  m.Pairwise (fun x y => x.1 < y.1) ∧ ∀ x ∈ m, x.1 < 2 ^ 32 ∧ x.2 ≠ Memory.unlisted

/-- MEM_OK (R66): the address exists and answers without an error. -/
def memOk (c : Config) (a : Nat) : Bool := decide (a < 2 ^ 32) && regionsHave c.backed a

/-- The engine reads one byte; outside MEM_OK it is a bus error (R66). -/
def readByte (c : Config) (m : Memory) (a : Nat) : Except ErrorCode Byte :=
  if memOk c a then .ok (Memory.read m a) else .error .bus

/-- The engine writes one byte; outside MEM_OK it is a bus error (R66). -/
def writeByte (c : Config) (m : Memory) (a : Nat) (b : Byte) : Except ErrorCode Memory :=
  if memOk c a then .ok (Memory.write m a b) else .error .bus

/-- MemRead(a, n): little-endian (00_scope.md R8). -/
def memRead (c : Config) (m : Memory) (a : Nat) : Nat → Except ErrorCode Nat
  | 0 => .ok 0
  | n + 1 => do
    let b ← readByte c m a
    let high ← memRead c m (a + 1) n
    .ok (b.toNat + 256 * high)

/-- MemWrite(a, n, v): the n low-order bytes of v, least significant byte at a (00_scope.md R8). -/
def memWrite (c : Config) (m : Memory) (a : Nat) : Nat → Nat → Except ErrorCode Memory
  | 0, _ => .ok m
  | n + 1, v => do
    let m ← writeByte c m a (BitVec.ofNat 8 v)
    memWrite c m (a + 1) n (v / 256)

/-- ElemRead (00_scope.md R8, 20_memory.md R62). -/
def elemRead (c : Config) (f : Field) (m : Memory) (a : Nat) : Except ErrorCode Nat := memRead c m a f.bytes

/-- ElemWrite (00_scope.md R8, 20_memory.md R62). -/
def elemWrite (c : Config) (f : Field) (m : Memory) (a v : Nat) : Except ErrorCode Memory :=
  memWrite c m a f.bytes v

/-- The `n` elements at the addresses `addr 0, …, addr (n-1)`, read in that order. -/
def readElems (c : Config) (f : Field) (m : Memory) (addr : Nat → Nat) (n : Nat) : Except ErrorCode (List Nat) :=
  loop (fun i xs => do
    let x ← elemRead c f m (addr i)
    .ok (xs ++ [x])) n []

/-! ### Free values (log entry 10) -/

/-- The first `k` bytes from `base` take the `n`-th free values. -/
def havocBytes (n base : Nat) : Nat → Memory → Memory
  | 0, m => m
  | k + 1, m => Memory.write (havocBytes n base k m) (base + k) (Config.anyByte n (base + k))

/-- Every byte of the regions takes the `n`-th free values. -/
def havocRegions (n : Nat) : List Region → Memory → Memory
  | [], m => m
  | r :: rest, m => havocRegions n rest (havocBytes n r.base r.len m)

/-- Every byte of the regions holds `any value`; the next free values are others. -/
def havoc (rs : List Region) (s : State) : State :=
  match rs with
  | [] => s
  | _ :: _ => { s with memory := havocRegions s.fresh rs s.memory, fresh := s.fresh + 1 }

/-! ### Issue and completion -/

/-- STATUS.BUSY = 1 iff eng = Busy (10_state.md R40). -/
def isBusy (s : State) : Bool :=
  match s.eng with
  | .idle => false
  | .busy _ => true

/-- What an accepted command word latches (44_engine_control.md R231). -/
def latch (w : Word) (s : State) : Latched :=
  { cmd := w, ops := s.ops, su := s.ctrl.su, sysdup := s.ctrl.sysdup }

/-- Command issue, accepted (44_engine_control.md R231). No host access has raced with it yet. -/
def acceptCommand (w : Word) (s : State) : State :=
  { s with eng := .busy (latch w s), lastCmd := w, status := { s.status with done := false }, raced := false }

/-- Command issue, refused (44_engine_control.md R232). -/
def refuseCommand (s : State) : State := { s with status := { s.status with cmdLost := true } }

/-- A host write to CMD (44_engine_control.md R231, R232). -/
def issue (w : Word) (s : State) : State :=
  if isBusy s || s.status.err then refuseCommand s else acceptCommand w s

/-- Successful completion (44_engine_control.md R233): the registers of `s` are committed, the engine is idle. -/
def complete (s : State) : State :=
  { s with eng := .idle, status := { s.status with done := true }, raced := false }

/-! ### Error entry and return -/

/-- ERRCODE of an error (60_exceptions.md R241). -/
def ErrorCode.code : ErrorCode → BitVec 8
  | .illegal => 0x01
  | .range => 0x02
  | .align => 0x03
  | .len => 0x04
  | .overlap => 0x05
  | .noInit => 0x06
  | .field => 0x07
  | .density => 0x08
  | .div0 => 0x09
  | .matrix => 0x0A
  | .bus => 0x0B

/-- Error entry (60_exceptions.md R244): ERR, ERRCODE and ERRCMD are written, the engine is idle, DONE is set. -/
def raiseError (e : ErrorCode) (l : Latched) (s : State) : State :=
  { s with
    eng := .idle
    errCmd := l.cmd
    status := { s.status with done := true, err := true, errCode := e.code }
    raced := false }

/-- Error return (60_exceptions.md R247): the host's acknowledgement. -/
def acknowledgeError (s : State) : State := { s with status := { s.status with err := false, errCode := 0 } }

/-! ### Reset -/

/-- Every piece of the block's state takes its reset value (10_state.md R44); memory is not touched
(70_reset_and_hazards.md R273), nor are the configuration and what the outside holds. -/
def resetBlock (s : State) : State :=
  { s with
    ctrl := Ctrl.reset
    status := Status.reset
    ops := Operands.reset
    res := 0
    lastCmd := 0
    errCmd := 0
    dec := Decoder.reset s.config.nmax
    gen := Generator.reset
    eng := .idle
    raced := false }

end Sys2Proof.Machine
end

