-- ==== Sys2Proof/Machine/Flags.lean ====
section
/-! DEFINITION. The flags: STATUS, CTRL, CAPS as words, the interrupt line, and the counts of symbol statuses. -/

namespace Sys2Proof.Machine

/-- A bit of a register word. -/
def flag (b : Bool) (k : Nat) : Nat := if b then 2 ^ k else 0

/-- F of a field (00_scope.md R3). -/
def fieldBit : Field → Bool
  | .gf8 => false
  | .gf16 => true

/-- COMPLETE = INIT and RANK = DN (10_state.md R36). -/
def isComplete (s : State) : Bool := s.dec.init && decide (s.dec.rank = s.dec.dn)

/-- PCOMPLETE = INIT and RANK > 0 and CNT_DEC < DN (10_state.md R36). -/
def isPartiallyComplete (s : State) : Bool :=
  s.dec.init && decide (0 < s.dec.rank.toNat) && decide (s.dec.cntDec.toNat < s.dec.dn.toNat)

/-- STATUS as a read returns it (10_state.md R30, R36). -/
def statusWord (s : State) : Word :=
  BitVec.ofNat 32
    (flag (isBusy s) 0 + flag s.status.done 1 + flag s.status.err 2 + flag s.status.cmdLost 3 +
      flag s.dec.dep 4 + flag s.dec.init 5 + flag (isComplete s) 6 + flag (isPartiallyComplete s) 7 +
      flag (fieldBit s.dec.dfield) 8 + s.status.errCode.toNat * 2 ^ 16)

/-- CTRL as a read returns it: bit 31 and the reserved bits read 0 (10_state.md R28). -/
def ctrlWord (s : State) : Word :=
  BitVec.ofNat 32 (flag s.ctrl.ie 0 + flag s.ctrl.su 1 + flag s.ctrl.sysdup 2)

/-- CAPS (10_state.md R27). -/
def capsWord (c : Config) : Word := BitVec.ofNat 32 (c.nmax % 2 ^ 16 + flag true 16 + flag true 17)

/-- IRQ = CTRL.IE and STATUS.DONE (60_exceptions.md R249). -/
def irq (s : State) : Bool := s.ctrl.ie && s.status.done

/-- A host write to STATUS (10_state.md R31): bit 1 clears DONE, bit 2 acknowledges the error, bit 3 clears CMDLOST. -/
def writeStatus (v : Word) (s : State) : State :=
  let s1 := if v.toNat.testBit 1 then { s with status := { s.status with done := false } } else s
  let s2 := if v.toNat.testBit 2 then acknowledgeError s1 else s1
  if v.toNat.testBit 3 then { s2 with status := { s2.status with cmdLost := false } } else s2

/-- A host write to CTRL with bit 31 = 0 (10_state.md R28). -/
def writeCtrl (v : Word) (s : State) : State :=
  { s with ctrl := { ie := v.toNat.testBit 0, su := v.toNat.testBit 1, sysdup := v.toNat.testBit 2 } }

/-- The code of a symbol status (10_state.md R39). -/
def statCode : SymbolStatus → Nat
  | .missing => 0
  | .partiallyDecoded => 1
  | .decoded => 2

/-- PIV[r] (10_state.md R38). -/
def pivAt (d : Decoder) (r : Nat) : Bool := d.piv.getD r false

/-- STAT[r] (10_state.md R38). -/
def statAt (d : Decoder) (r : Nat) : SymbolStatus := d.stat.getD r .missing

/-- The number of r in 0..N-1 with STAT[r] = x (10_state.md R35). -/
def countStat (d : Decoder) (x : SymbolStatus) : Nat :=
  (List.range d.dn.toNat).countP fun r => decide (statAt d r = x)

/-- COUNTS (43_pivot_engine.md R196). -/
def updateCounts (d : Decoder) : Decoder :=
  { d with
    cntMiss := BitVec.ofNat 32 (countStat d .missing)
    cntPart := BitVec.ofNat 32 (countStat d .partiallyDecoded)
    cntDec := BitVec.ofNat 32 (countStat d .decoded) }

end Sys2Proof.Machine
end

