-- ==== Sys2Proof/Machine/Operands.lean ====
section
/-! DEFINITION. What each command takes from the latched A0-A3 (30_encoding.md R92, R93), the checks it makes before any
memory access, in the order of its rule (60_exceptions.md R243), and the bytes it reads and writes (20_memory.md R61). -/

namespace Sys2Proof.Machine

/-- An element operand fits the field (30_encoding.md R92): below 2^w. -/
def elementOk (f : Field) (v : Word) : Bool := decide (v.toNat < 2 ^ f.width)

/-- A buffer address is aligned (20_memory.md R64): even for GF(2^16), any for GF(2^8). -/
def addressAligned (f : Field) (a : Nat) : Bool := decide (a % f.bytes = 0)

/-- A buffer of `n` elements. -/
def elemRegion (f : Field) (a n : Nat) : Region := ⟨a, n * f.bytes⟩

/-! ### Named operands -/

/-- dst of ROW_AXPY and ROW_SCALE: A0, A2 bytes (41_row_combiner.md R141, R142). -/
def rowDst (l : Latched) : Region := ⟨l.ops.a0.toNat, l.ops.a2.toNat⟩

/-- src of ROW_AXPY: A1, A2 bytes (41_row_combiner.md R141). -/
def rowSrc (l : Latched) : Region := ⟨l.ops.a1.toNat, l.ops.a2.toNat⟩

/-- out of GEN_FILL and GEN_FILL_PARTIAL: A0, A1 elements (42_coeff_generator.md R167, R168). -/
def fillOut (f : Field) (l : Latched) : Region := elemRegion f l.ops.a0.toNat l.ops.a1.toNat

/-- The mask of GEN_FILL_PARTIAL: A2, ⌈A1 / 8⌉ bytes (42_coeff_generator.md R168). -/
def fillMask (l : Latched) : Region := ⟨l.ops.a2.toNat, (l.ops.a1.toNat + 7) / 8⟩

/-- The coefficient region a DEC_INIT binds: A2, N·N elements (43_pivot_engine.md R197). -/
def initCoef (f : Field) (l : Latched) : Region :=
  elemRegion f l.ops.a2.toNat (l.ops.a0.toNat * l.ops.a0.toNat)

/-- The symbol region a DEC_INIT binds: A3, N·S bytes (43_pivot_engine.md R197). -/
def initSym (l : Latched) : Region := ⟨l.ops.a3.toNat, l.ops.a0.toNat * l.ops.a1.toNat⟩

/-- The coefficient matrix of the session (43_pivot_engine.md R191). -/
def coefRegion (d : Decoder) : Region := elemRegion d.dfield d.dcoef.toNat (d.dn.toNat * d.dn.toNat)

/-- The symbol matrix of the session (43_pivot_engine.md R191). -/
def symRegion (d : Decoder) : Region := ⟨d.dsym.toNat, d.dn.toNat * d.ds.toNat⟩

/-- The coefficient vector of DEC_CONSUME: A0, N elements (43_pivot_engine.md R199). -/
def consumeVector (d : Decoder) (l : Latched) : Region := elemRegion d.dfield l.ops.a0.toNat d.dn.toNat

/-- The symbol of DEC_CONSUME and DEC_CONSUME_SYS: A1, S bytes (43_pivot_engine.md R199, R200). -/
def consumeSymbol (d : Decoder) (l : Latched) : Region := ⟨l.ops.a1.toNat, d.ds.toNat⟩

/-- COEF(r, j) (43_pivot_engine.md R191). -/
def coefAddr (d : Decoder) (r j : Nat) : Nat := d.dcoef.toNat + (r * d.dn.toNat + j) * d.dfield.bytes

/-- SYM(r, k) (43_pivot_engine.md R191). -/
def symAddr (d : Decoder) (r k : Nat) : Nat := d.dsym.toNat + r * d.ds.toNat + k * d.dfield.bytes

/-- S/E, the elements of a symbol (43_pivot_engine.md R191). -/
def symElems (d : Decoder) : Nat := d.ds.toNat / d.dfield.bytes

/-! ### Checks -/

/-- GF_ADD, GF_MUL (40_gf_arith.md R116, R117). -/
def gfBinaryChecks (f : Field) (l : Latched) : List (Bool × ErrorCode) :=
  [(!elementOk f l.ops.a0 || !elementOk f l.ops.a1, .range)]

/-- GF_DIV (40_gf_arith.md R118). -/
def gfDivChecks (f : Field) (l : Latched) : List (Bool × ErrorCode) :=
  [(!elementOk f l.ops.a0 || !elementOk f l.ops.a1, .range), (decide (l.ops.a1.toNat = 0), .div0)]

/-- GF_INV (40_gf_arith.md R119). -/
def gfInvChecks (f : Field) (l : Latched) : List (Bool × ErrorCode) :=
  [(!elementOk f l.ops.a0, .range), (decide (l.ops.a0.toNat = 0), .div0)]

/-- ROW_AXPY (41_row_combiner.md R140, R141). -/
def rowAxpyChecks (f : Field) (l : Latched) : List (Bool × ErrorCode) :=
  [(!elementOk f l.ops.a3 || !inRange (rowDst l) || !inRange (rowSrc l), .range),
   (!addressAligned f l.ops.a0.toNat || !addressAligned f l.ops.a1.toNat, .align),
   (decide (l.ops.a2.toNat % f.bytes ≠ 0), .len),
   (partialOverlap (rowDst l) (rowSrc l), .overlap)]

/-- ROW_SCALE (41_row_combiner.md R140, R142). -/
def rowScaleChecks (f : Field) (l : Latched) : List (Bool × ErrorCode) :=
  [(!elementOk f l.ops.a3 || !inRange (rowDst l), .range),
   (!addressAligned f l.ops.a0.toNat, .align),
   (decide (l.ops.a2.toNat % f.bytes ≠ 0), .len)]

/-- A valid density: 0x0000_0001 ≤ D ≤ 0x3F80_0000 (42_coeff_generator.md R163). -/
def densityOk (v : Word) : Bool := decide (1 ≤ v.toNat) && decide (v.toNat ≤ 0x3F800000)

/-- GEN_DENSITY (42_coeff_generator.md R166). -/
def genDensityChecks (l : Latched) : List (Bool × ErrorCode) := [(!densityOk l.ops.a0, .density)]

/-- GEN_FILL (42_coeff_generator.md R167). -/
def genFillChecks (f : Field) (l : Latched) : List (Bool × ErrorCode) :=
  [(!inRange (fillOut f l), .range), (!addressAligned f l.ops.a0.toNat, .align)]

/-- GEN_FILL_PARTIAL (42_coeff_generator.md R168). -/
def genFillPartialChecks (f : Field) (l : Latched) : List (Bool × ErrorCode) :=
  [(!inRange (fillOut f l) || !inRange (fillMask l), .range),
   (!addressAligned f l.ops.a0.toNat, .align),
   (decide (0 < l.ops.a1.toNat) && regionsMeet (fillOut f l) (fillMask l), .overlap)]

/-- DEC_INIT (43_pivot_engine.md R197). -/
def decInitChecks (c : Config) (f : Field) (l : Latched) : List (Bool × ErrorCode) :=
  [(decide (l.ops.a0.toNat = 0) || decide (c.nmax < l.ops.a0.toNat) || decide (l.ops.a1.toNat = 0), .range),
   (!inRange (initCoef f l) || !inRange (initSym l), .range),
   (!addressAligned f l.ops.a2.toNat || !addressAligned f l.ops.a3.toNat, .align),
   (decide (l.ops.a1.toNat % f.bytes ≠ 0), .len),
   (regionsMeet (initCoef f l) (initSym l), .overlap)]

/-- The checks common to the other decoder commands (43_pivot_engine.md R198). -/
def sessionChecks (f : Field) (d : Decoder) : List (Bool × ErrorCode) :=
  [(!d.init, .noInit), (decide (f ≠ d.dfield), .field)]

/-- An input buffer meets a matrix region of the session (43_pivot_engine.md R199, R200). -/
def meetsMatrix (d : Decoder) (r : Region) : Bool := regionsMeet r (coefRegion d) || regionsMeet r (symRegion d)

/-- DEC_CONSUME (43_pivot_engine.md R199). -/
def decConsumeChecks (f : Field) (d : Decoder) (l : Latched) : List (Bool × ErrorCode) :=
  sessionChecks f d ++
  [(!inRange (consumeVector d l) || !inRange (consumeSymbol d l), .range),
   (!addressAligned d.dfield l.ops.a0.toNat || !addressAligned d.dfield l.ops.a1.toNat, .align),
   (meetsMatrix d (consumeVector d l) || meetsMatrix d (consumeSymbol d l), .overlap)]

/-- DEC_CONSUME_SYS (43_pivot_engine.md R200). -/
def decConsumeSysChecks (f : Field) (d : Decoder) (l : Latched) : List (Bool × ErrorCode) :=
  sessionChecks f d ++
  [(decide (d.dn.toNat ≤ l.ops.a0.toNat) || !inRange (consumeSymbol d l), .range),
   (!addressAligned d.dfield l.ops.a1.toNat, .align),
   (meetsMatrix d (consumeSymbol d l), .overlap)]

/-- DEC_QUERY (43_pivot_engine.md R202). -/
def decQueryChecks (f : Field) (d : Decoder) (l : Latched) : List (Bool × ErrorCode) :=
  sessionChecks f d ++ [(decide (d.dn.toNat ≤ l.ops.a0.toNat), .range)]

/-- The checks a command makes before any memory access, in the order of its rule. -/
def checks (i : Instr) (l : Latched) (s : State) : List (Bool × ErrorCode) :=
  match i with
  | .nop => []
  | .gfAdd f => gfBinaryChecks f l
  | .gfMul f => gfBinaryChecks f l
  | .gfDiv f => gfDivChecks f l
  | .gfInv f => gfInvChecks f l
  | .rowAxpy f => rowAxpyChecks f l
  | .rowScale f => rowScaleChecks f l
  | .genSeed => []
  | .genDensity => genDensityChecks l
  | .genFill f => genFillChecks f l
  | .genFillPartial f => genFillPartialChecks f l
  | .decInit f => decInitChecks s.config f l
  | .decConsume f => decConsumeChecks f s.dec l
  | .decConsumeSys f => decConsumeSysChecks f s.dec l
  | .decUpdateStatus f => sessionChecks f s.dec
  | .decQuery f => decQueryChecks f s.dec l

/-! ### The bytes of a command -/

/-- The buffers a command names as read or written (20_memory.md R61, R73: for a decoder command that accesses memory,
both whole matrix regions; log entry 22). -/
def readBuffers (i : Instr) (l : Latched) (d : Decoder) : List Region :=
  match i with
  | .nop => []
  | .gfAdd _ => []
  | .gfMul _ => []
  | .gfDiv _ => []
  | .gfInv _ => []
  | .rowAxpy _ => [rowDst l, rowSrc l]
  | .rowScale _ => [rowDst l]
  | .genSeed => []
  | .genDensity => []
  | .genFill _ => []
  | .genFillPartial _ => [fillMask l]
  | .decInit _ => []
  | .decConsume _ => [consumeVector d l, consumeSymbol d l, coefRegion d, symRegion d]
  | .decConsumeSys _ => [consumeSymbol d l, coefRegion d, symRegion d]
  | .decUpdateStatus _ => [coefRegion d, symRegion d]
  | .decQuery _ => []

/-- The buffers a command writes (60_exceptions.md R246). -/
def writeBuffers (i : Instr) (l : Latched) (d : Decoder) : List Region :=
  match i with
  | .nop => []
  | .gfAdd _ => []
  | .gfMul _ => []
  | .gfDiv _ => []
  | .gfInv _ => []
  | .rowAxpy _ => [rowDst l]
  | .rowScale _ => [rowDst l]
  | .genSeed => []
  | .genDensity => []
  | .genFill f => [fillOut f l]
  | .genFillPartial f => [fillOut f l]
  | .decInit _ => []
  | .decConsume _ => [coefRegion d, symRegion d]
  | .decConsumeSys _ => [coefRegion d, symRegion d]
  | .decUpdateStatus _ => []
  | .decQuery _ => []

/-- The checks of the command in flight hold, so that it goes on to its memory accesses. -/
def checksPass (i : Instr) (l : Latched) (s : State) : Bool := (firstError (checks i l s)).isNone

/-- The bytes the command could write: none if a check stops it (60_exceptions.md R245; log entry 9). -/
def writesOf (i : Instr) (l : Latched) (s : State) : List Region :=
  if checksPass i l s then writeBuffers i l s.dec else []

/-- The bytes the command reads or writes. -/
def touchesOf (i : Instr) (l : Latched) (s : State) : List Region :=
  if checksPass i l s then readBuffers i l s.dec ++ writeBuffers i l s.dec else []

/-- The bytes the command in flight could write; an illegal word writes none. -/
def writesInFlight (s : State) : List Region :=
  match s.eng with
  | .idle => []
  | .busy l =>
    match decode l.cmd with
    | some i => writesOf i l s
    | none => []

/-- The bytes the command in flight reads or writes. -/
def touchesInFlight (s : State) : List Region :=
  match s.eng with
  | .idle => []
  | .busy l =>
    match decode l.cmd with
    | some i => touchesOf i l s
    | none => []

/-! ### Running a command -/

/-- The command's memory is out of the rules: the host raced with it (20_memory.md R73), or it was pointed at a device
region (20_memory.md R67). -/
def disturbed (i : Instr) (l : Latched) (s : State) : Bool :=
  s.raced || (touchesOf i l s).any fun r => s.config.devices.any fun q => regionsMeet r q

/-- Every byte a disturbed command writes holds any value (20_memory.md R67, R73; log entries 8 and 15). -/
def disturb (i : Instr) (l : Latched) (s t : State) : State :=
  if disturbed i l s then havoc (writesOf i l s) t else t

/-- The commands whose ERR_BUS ends the session (60_exceptions.md R246, which names the two; 10_state.md R43 refers to
it). -/
def endsSession : Instr → Bool
  | .nop => false
  | .gfAdd _ => false
  | .gfMul _ => false
  | .gfDiv _ => false
  | .gfInv _ => false
  | .rowAxpy _ => false
  | .rowScale _ => false
  | .genSeed => false
  | .genDensity => false
  | .genFill _ => false
  | .genFillPartial _ => false
  | .decInit _ => false
  | .decConsume _ => true
  | .decConsumeSys _ => true
  | .decUpdateStatus _ => false
  | .decQuery _ => false

/-- A DEC_CONSUME or DEC_CONSUME_SYS that raises ERR_BUS also sets STATUS.INIT to 0; RANK, the counts, PIV and STAT keep
their values (60_exceptions.md R246; log entry 11). -/
def endSession (i : Instr) (s : State) : State :=
  if endsSession i then { s with dec := { s.dec with init := false } } else s

/-- The end of command `i` in state `s`: `finish` with the registers and memory of `t` (44_engine_control.md R233), or
`raise` with the effects of 60_exceptions.md R244-R246. -/
def conclude (i : Instr) (l : Latched) (s : State) : Except ErrorCode State → State
  | .ok t => complete (disturb i l s t)
  | .error .bus => raiseError .bus l (havoc (writesOf i l s) (endSession i s))
  | .error e => raiseError e l (disturb i l s s)

/-- Run command `i`: its checks, then its body, then its end. With no command in flight the engine does nothing
(10_state.md R40; log entry 16). -/
def runCommand (i : Instr) (s : State) (body : Latched → Except ErrorCode State) :
    Host.Outcome State Fault Refusal :=
  match s.eng with
  | .idle => .next s
  | .busy l =>
    .next (conclude i l s (match firstError (checks i l s) with
      | some e => .error e
      | none => body l))

end Sys2Proof.Machine
end

