-- ==== Sys2Proof/Machine/Control.lean ====
section
/-! DEFINITION. NOP (44_engine_control.md R230). -/

namespace Sys2Proof.Machine

/-- NOP (R230): `finish`. -/
def execNop (s : State) : Host.Outcome State Fault Refusal := runCommand .nop s fun _ => .ok s

end Sys2Proof.Machine
end

