-- ==== Sys2Proof/Machine/Gf.lean ====
section
/-! DEFINITION. The finite-field commands (40_gf_arith.md R116-R119): RES gets the result, zero-extended. -/

namespace Sys2Proof.Machine

/-- R[RES] <- zext_32(v) (10_state.md R24). -/
def withRes (v : Nat) (s : State) : State := { s with res := BitVec.ofNat 32 v }

/-- GF_ADD (R116). -/
def execGfAdd (f : Field) (s : State) : Host.Outcome State Fault Refusal :=
  runCommand (.gfAdd f) s fun l => .ok (withRes (gfAdd l.ops.a0.toNat l.ops.a1.toNat) s)

/-- GF_MUL (R117). -/
def execGfMul (f : Field) (s : State) : Host.Outcome State Fault Refusal :=
  runCommand (.gfMul f) s fun l => .ok (withRes (gfMul s.config f l.ops.a0.toNat l.ops.a1.toNat) s)

/-- GF_DIV (R118). -/
def execGfDiv (f : Field) (s : State) : Host.Outcome State Fault Refusal :=
  runCommand (.gfDiv f) s fun l => .ok (withRes (gfDiv s.config f l.ops.a0.toNat l.ops.a1.toNat) s)

/-- GF_INV (R119). -/
def execGfInv (f : Field) (s : State) : Host.Outcome State Fault Refusal :=
  runCommand (.gfInv f) s fun l => .ok (withRes (gfInv s.config f l.ops.a0.toNat) s)

end Sys2Proof.Machine
end

