-- ==== Sys2Proof/Machine/Dec.lean ====
section
/-! DEFINITION. The pivot engine (43_pivot_engine.md R190-R202). -/

namespace Sys2Proof.Machine

/-! ### Procedures (R192-R195) -/

/-- The number of nonzero elements of a row. -/
def nonzeros (v : List Nat) : Nat := v.countP fun x => decide (x ≠ 0)

/-- Row r of the coefficient matrix, elements 0 to N-1 in order. -/
def readRow (c : Config) (d : Decoder) (m : Memory) (r : Nat) : Except ErrorCode (List Nat) :=
  readElems c d.dfield m (coefAddr d r) d.dn.toNat

/-- One pivot of FORWARD (R192): `x` holds the running vector v and the factors f. -/
def forwardStep (c : Config) (d : Decoder) (m : Memory) (p : Nat) (x : List Nat × List Nat) :
    Except ErrorCode (List Nat × List Nat) :=
  if pivAt d p && decide (x.1.getD p 0 ≠ 0) then do
    let piv ← elemRead c d.dfield m (coefAddr d p p)
    if piv = 0 then .error .div0
    else
      let fac := gfDiv c d.dfield (x.1.getD p 0) piv
      let row ← readRow c d m p
      .ok (List.zipWith (fun y z => gfAdd y (gfMul c d.dfield fac z)) x.1 row, x.2.set p fac)
  else .ok x

/-- FORWARD (R192): the reduced vector and the factors; it writes no memory. -/
def forward (c : Config) (d : Decoder) (m : Memory) (v : List Nat) : Except ErrorCode (List Nat × List Nat) :=
  loop (forwardStep c d m) d.dn.toNat (v, List.replicate d.dn.toNat 0)

/-- Element k of the incoming symbol, reduced by the factors (R193): the value t before normalisation. -/
def reducedSymbol (c : Config) (d : Decoder) (fs : List Nat) (sp k : Nat) (m : Memory) : Except ErrorCode Nat := do
  let t ← elemRead c d.dfield m (sp + k * d.dfield.bytes)
  loop (fun p t =>
    if fs.getD p 0 ≠ 0 then do
      let x ← elemRead c d.dfield m (symAddr d p k)
      .ok (gfAdd t (gfMul c d.dfield (fs.getD p 0) x))
    else .ok t) d.dn.toNat t

/-- INSERT (R193): row c of both matrices becomes the normalised row. -/
def insertRow (c : Config) (d : Decoder) (col : Nat) (v fs : List Nat) (sp : Nat) (m : Memory) :
    Except ErrorCode Memory := do
  let ic := gfInv c d.dfield (v.getD col 0)
  let m ← loop (fun j m => elemWrite c d.dfield m (coefAddr d col j) (gfMul c d.dfield ic (v.getD j 0)))
    d.dn.toNat m
  loop (fun k m => do
    let t ← reducedSymbol c d fs sp k m
    elemWrite c d.dfield m (symAddr d col k) (gfMul c d.dfield ic t)) (symElems d) m

/-- One element of BACKSUB's inner loops (R194): `target` gets g times `source` added. -/
def backsubElem (c : Config) (f : Field) (g target source : Nat) (m : Memory) : Except ErrorCode Memory := do
  let x ← elemRead c f m target
  let y ← elemRead c f m source
  elemWrite c f m target (gfAdd x (gfMul c f g y))

/-- One row of BACKSUB (R194): g is read once, before row r changes. -/
def backsubRow (c : Config) (d : Decoder) (col r : Nat) (m : Memory) : Except ErrorCode Memory :=
  if pivAt d r && decide (r ≠ col) then do
    let g ← elemRead c d.dfield m (coefAddr d r col)
    if g ≠ 0 then do
      let m ← loop (fun j m => backsubElem c d.dfield g (coefAddr d r j) (coefAddr d col j) m) d.dn.toNat m
      loop (fun k m => backsubElem c d.dfield g (symAddr d r k) (symAddr d col k) m) (symElems d) m
    else .ok m
  else .ok m

/-- BACKSUB (R194). -/
def backsub (c : Config) (d : Decoder) (col : Nat) (m : Memory) : Except ErrorCode Memory :=
  loop (backsubRow c d col) d.dn.toNat m

/-- One row of SCAN (R195). -/
def scanRow (c : Config) (m : Memory) (r : Nat) (d : Decoder) : Except ErrorCode Decoder :=
  if statAt d r = .partiallyDecoded then do
    let row ← readRow c d m r
    .ok (if nonzeros row = 1 then { d with stat := d.stat.set r .decoded } else d)
  else .ok d

/-- SCAN (R195). -/
def scan (c : Config) (m : Memory) (d : Decoder) : Except ErrorCode Decoder := loop (scanRow c m) d.dn.toNat d

/-- The end of a consume (R199, R200): SCAN if the latched SU is set, COUNTS, DEP, RES. -/
def finishConsume (s : State) (su dep : Bool) (res : Nat) (d : Decoder) (m : Memory) : Except ErrorCode State := do
  let d ← if su then scan s.config m d else .ok d
  .ok (withRes res { s with dec := { updateCounts d with dep := dep }, memory := m })

/-- PIV[c] <- 1 ; RANK <- RANK + 1 (R199, R200). -/
def addPivot (d : Decoder) (col : Nat) : Decoder := { d with piv := d.piv.set col true, rank := d.rank + 1 }

/-- STAT[c] <- x. -/
def setStat (d : Decoder) (col : Nat) (x : SymbolStatus) : Decoder := { d with stat := d.stat.set col x }

/-- RES of a symbol that was not inserted (R199, R200). -/
def notInserted : Nat := 0xFFFFFFFF

/-- CONSUME_ROW (R199). -/
def consumeRow (s : State) (l : Latched) (v : List Nat) (sp : Nat) : Except ErrorCode State := do
  let (v, fs) ← forward s.config s.dec s.memory v
  match v.findIdx? (fun x => decide (x ≠ 0)) with
  | none => finishConsume s l.su true notInserted s.dec s.memory
  | some col =>
    if pivAt s.dec col then .error .matrix
    else do
      let m ← insertRow s.config s.dec col v fs sp s.memory
      let d := addPivot s.dec col
      let m ← backsub s.config d col m
      let d := setStat d col (if nonzeros v = 1 then .decoded else .partiallyDecoded)
      finishConsume s l.su false col d m

/-- The unit vector e_i of N elements. -/
def unitVector (n i : Nat) : List Nat := (List.range n).map fun j => if j = i then 1 else 0

/-- The insertion of a systematic symbol at an empty index (R200): the unit row, then the raw symbol. -/
def insertUnitRow (c : Config) (d : Decoder) (i sp : Nat) (m : Memory) : Except ErrorCode Memory := do
  let m ← loop (fun j m => elemWrite c d.dfield m (coefAddr d i j) (if j = i then 1 else 0)) d.dn.toNat m
  loop (fun k m => do
    let x ← elemRead c d.dfield m (sp + k * d.dfield.bytes)
    elemWrite c d.dfield m (symAddr d i k) x) (symElems d) m

/-- The three cases of DEC_CONSUME_SYS after its checks (R200). -/
def consumeUnit (s : State) (l : Latched) (i sp : Nat) : Except ErrorCode State :=
  if pivAt s.dec i then
    if l.sysdup then consumeRow s l (unitVector s.dec.dn.toNat i) sp
    else finishConsume s l.su true notInserted s.dec s.memory
  else do
    let m ← insertUnitRow s.config s.dec i sp s.memory
    let d := addPivot s.dec i
    let m ← backsub s.config d i m
    finishConsume s l.su false i (setStat d i .decoded) m

/-- The decoder a successful DEC_INIT binds, DEP cleared among the rest (R197; log entry 20). -/
def initDecoder (c : Config) (f : Field) (o : Operands) : Decoder :=
  { init := true, dep := false, dfield := f, dn := o.a0, ds := o.a1, dcoef := o.a2, dsym := o.a3, rank := 0,
    cntMiss := o.a0, cntPart := 0, cntDec := 0,
    piv := List.replicate c.nmax false, stat := List.replicate c.nmax .missing }

/-! ### Commands -/

/-- DEC_INIT (R197): it accesses no memory. -/
def execDecInit (f : Field) (s : State) : Host.Outcome State Fault Refusal :=
  runCommand (.decInit f) s fun l => .ok { s with dec := initDecoder s.config f l.ops }

/-- DEC_CONSUME (R199). -/
def execDecConsume (f : Field) (s : State) : Host.Outcome State Fault Refusal :=
  runCommand (.decConsume f) s fun l => do
    let v ← readElems s.config s.dec.dfield s.memory (fun j => l.ops.a0.toNat + j * s.dec.dfield.bytes)
      s.dec.dn.toNat
    consumeRow s l v l.ops.a1.toNat

/-- DEC_CONSUME_SYS (R200). -/
def execDecConsumeSys (f : Field) (s : State) : Host.Outcome State Fault Refusal :=
  runCommand (.decConsumeSys f) s fun l => consumeUnit s l l.ops.a0.toNat l.ops.a1.toNat

/-- DEC_UPDATE_STATUS (R201): it writes no memory. -/
def execDecUpdateStatus (f : Field) (s : State) : Host.Outcome State Fault Refusal :=
  runCommand (.decUpdateStatus f) s fun _ => do
    let d ← scan s.config s.memory s.dec
    .ok { s with dec := updateCounts d }

/-- DEC_QUERY (R202): it accesses no memory. -/
def execDecQuery (f : Field) (s : State) : Host.Outcome State Fault Refusal :=
  runCommand (.decQuery f) s fun l => .ok (withRes (statCode (statAt s.dec l.ops.a0.toNat)) s)

end Sys2Proof.Machine
end

