-- ==== Sys2Proof/Machine/Gen.lean ====
section
/-! DEFINITION. The coefficient generator (42_coeff_generator.md R160-R168). -/

namespace Sys2Proof.Machine

/-- seed_state (R161): the seed above its complement. -/
def seedState (seed : Word) : BitVec 64 := seed ++ ~~~seed

/-- One xorshift64 step with shifts 13, 7, 17 (R162). -/
def xorshift (g : BitVec 64) : BitVec 64 :=
  let g1 := g ^^^ (g <<< 13)
  let g2 := g1 ^^^ (g1 >>> 7)
  g2 ^^^ (g2 <<< 17)

/-- The value a draw returns: bits 63:32 of the new state (R162). -/
def drawn (g : BitVec 64) : Nat := (g >>> 32).toNat

/-- draw_coef (R164): the coefficient and the new GSTATE. -/
def drawCoef (gen : Generator) (w : Nat) (g : BitVec 64) : Nat × BitVec 64 :=
  let g1 := xorshift g
  if gen.gfull then (drawn g1 % 2 ^ w, g1)
  else if drawn g1 < gen.gt.toNat then (drawn (xorshift g1) % 2 ^ w, xorshift g1)
  else (0, g1)

/-- The threshold pair (GFULL, GT) of a valid density (R163). -/
def threshold (d : Word) : Bool × Word :=
  if d.toNat = 0x3F800000 then (true, 0)
  else
    let e := d.toNat / 2 ^ 23 % 256
    let sig := 2 ^ 23 + d.toNat % 2 ^ 23
    (false, BitVec.ofNat 32
      (if e = 0 then 0 else if 118 ≤ e then sig <<< (e - 118) else sig >>> (118 - e)))

/-- One element of GEN_FILL (R167): a draw, then a write; the running GSTATE is committed only at the end. -/
def fillElem (c : Config) (f : Field) (gen : Generator) (out i : Nat) (x : BitVec 64 × Memory) :
    Except ErrorCode (BitVec 64 × Memory) := do
  let (v, g) := drawCoef gen f.width x.1
  let m ← elemWrite c f x.2 (out + i * f.bytes) v
  .ok (g, m)

/-- One element of GEN_FILL_PARTIAL (R168): a draw, the mask bit, then a write of the draw or of 0. -/
def fillMaskedElem (c : Config) (f : Field) (gen : Generator) (out mk i : Nat) (x : BitVec 64 × Memory) :
    Except ErrorCode (BitVec 64 × Memory) := do
  let (v, g) := drawCoef gen f.width x.1
  let b ← memRead c x.2 (mk + i / 8) 1
  let m ← elemWrite c f x.2 (out + i * f.bytes) (if b.testBit (i % 8) then v else 0)
  .ok (g, m)

/-- The state with the generator state and memory a fill ends with. -/
def withFill (s : State) (x : BitVec 64 × Memory) : State :=
  { s with gen := { s.gen with gstate := x.1 }, memory := x.2 }

/-- GEN_SEED (R165). -/
def execGenSeed (s : State) : Host.Outcome State Fault Refusal :=
  runCommand .genSeed s fun l => .ok { s with gen := { s.gen with gstate := seedState l.ops.a0 } }

/-- GEN_DENSITY (R166). -/
def execGenDensity (s : State) : Host.Outcome State Fault Refusal :=
  runCommand .genDensity s fun l =>
    .ok { s with
      gen := { s.gen with
        gdens := l.ops.a0
        gfull := (threshold l.ops.a0).1
        gt := (threshold l.ops.a0).2 } }

/-- GEN_FILL (R167). -/
def execGenFill (f : Field) (s : State) : Host.Outcome State Fault Refusal :=
  runCommand (.genFill f) s fun l => do
    let x ← loop (fillElem s.config f s.gen l.ops.a0.toNat) l.ops.a1.toNat (s.gen.gstate, s.memory)
    .ok (withFill s x)

/-- GEN_FILL_PARTIAL (R168). -/
def execGenFillPartial (f : Field) (s : State) : Host.Outcome State Fault Refusal :=
  runCommand (.genFillPartial f) s fun l => do
    let x ← loop (fillMaskedElem s.config f s.gen l.ops.a0.toNat l.ops.a2.toNat) l.ops.a1.toNat
      (s.gen.gstate, s.memory)
    .ok (withFill s x)

end Sys2Proof.Machine
end

