-- ==== Sys2Proof/Machine/Row.lean ====
section
/-! DEFINITION. The row combiner (41_row_combiner.md R140-R143). Every element is read and written, whatever the
scalar (R143). -/

namespace Sys2Proof.Machine

/-- One lane of ROW_AXPY (R141): src is read, then dst, then dst is written. -/
def axpyLane (c : Config) (f : Field) (dst src sc i : Nat) (m : Memory) : Except ErrorCode Memory := do
  let x ← elemRead c f m (src + i * f.bytes)
  let y ← elemRead c f m (dst + i * f.bytes)
  elemWrite c f m (dst + i * f.bytes) (gfAdd y (gfMul c f sc x))

/-- One lane of ROW_SCALE (R142). -/
def scaleLane (c : Config) (f : Field) (dst sc i : Nat) (m : Memory) : Except ErrorCode Memory := do
  let y ← elemRead c f m (dst + i * f.bytes)
  elemWrite c f m (dst + i * f.bytes) (gfMul c f sc y)

/-- The memory after ROW_AXPY on `n` elements. -/
def axpy (c : Config) (f : Field) (dst src sc n : Nat) (m : Memory) : Except ErrorCode Memory :=
  loop (axpyLane c f dst src sc) n m

/-- The memory after ROW_SCALE on `n` elements. -/
def scale (c : Config) (f : Field) (dst sc n : Nat) (m : Memory) : Except ErrorCode Memory :=
  loop (scaleLane c f dst sc) n m

/-- ROW_AXPY (R141). -/
def execRowAxpy (f : Field) (s : State) : Host.Outcome State Fault Refusal :=
  runCommand (.rowAxpy f) s fun l => do
    let m ← axpy s.config f l.ops.a0.toNat l.ops.a1.toNat l.ops.a3.toNat (l.ops.a2.toNat / f.bytes) s.memory
    .ok { s with memory := m }

/-- ROW_SCALE (R142). -/
def execRowScale (f : Field) (s : State) : Host.Outcome State Fault Refusal :=
  runCommand (.rowScale f) s fun l => do
    let m ← scale s.config f l.ops.a0.toNat l.ops.a3.toNat (l.ops.a2.toNat / f.bytes) s.memory
    .ok { s with memory := m }

end Sys2Proof.Machine
end

