-- ==== Sys2Proof/Machine/Dispatch.lean ====
section
/-! DEFINITION. One arm per command (30_encoding.md R93). -/

namespace Sys2Proof.Machine

/-- The meaning of a command, run by the engine on the command it has latched (44_engine_control.md R233). -/
def exec (i : Instr) (s : State) : Host.Outcome State Fault Refusal :=
  match i with
  | .nop => Sys2Proof.Machine.execNop s
  | .gfAdd f => Sys2Proof.Machine.execGfAdd f s
  | .gfMul f => Sys2Proof.Machine.execGfMul f s
  | .gfDiv f => Sys2Proof.Machine.execGfDiv f s
  | .gfInv f => Sys2Proof.Machine.execGfInv f s
  | .rowAxpy f => Sys2Proof.Machine.execRowAxpy f s
  | .rowScale f => Sys2Proof.Machine.execRowScale f s
  | .genSeed => Sys2Proof.Machine.execGenSeed s
  | .genDensity => Sys2Proof.Machine.execGenDensity s
  | .genFill f => Sys2Proof.Machine.execGenFill f s
  | .genFillPartial f => Sys2Proof.Machine.execGenFillPartial f s
  | .decInit f => Sys2Proof.Machine.execDecInit f s
  | .decConsume f => Sys2Proof.Machine.execDecConsume f s
  | .decConsumeSys f => Sys2Proof.Machine.execDecConsumeSys f s
  | .decUpdateStatus f => Sys2Proof.Machine.execDecUpdateStatus f s
  | .decQuery f => Sys2Proof.Machine.execDecQuery f s

end Sys2Proof.Machine
end

