-- ==== Sys2Proof/Machine/HostPort.lean ====
section
/-! DEFINITION. What the host and the platform do to the block: register reads and writes (10_state.md R21-R42,
44_engine_control.md R236, R237), memory accesses (20_memory.md R73, R78), and reset (70_reset_and_hazards.md). -/

namespace Sys2Proof.Machine

/-! ### Reset (70_reset_and_hazards.md R271, R272) -/

/-- A command in flight is abandoned: every byte it could have written holds any value (R272). -/
def abortInFlight (s : State) : State := havoc (writesInFlight s) s

/-- The reset of the block, by either source: the command in flight is abandoned, then every piece of state takes its
reset value (R271, R272; log entry 12). -/
def reset (s : State) : State := resetBlock (abortInFlight s)

/-- The reset input changes (R271; log entry 12). -/
def setResetPin (asserted : Bool) (s : State) : State := { reset s with inReset := asserted }

/-! ### The register port -/

/-- ID (10_state.md R26). -/
def idWord : Word := 0x524C4E43

/-- What a read of the register at an offset returns (10_state.md R22, R41). -/
def readReg (s : State) (off : Nat) : Word :=
  match off with
  | 0x00 => idWord
  | 0x04 => capsWord s.config
  | 0x08 => ctrlWord s
  | 0x0C => statusWord s
  | 0x10 => s.lastCmd
  | 0x14 => s.ops.a0
  | 0x18 => s.ops.a1
  | 0x1C => s.ops.a2
  | 0x20 => s.ops.a3
  | 0x24 => s.res
  | 0x28 => s.errCmd
  | 0x2C => s.dec.dn
  | 0x30 => s.dec.ds
  | 0x34 => s.dec.dcoef
  | 0x38 => s.dec.dsym
  | 0x3C => s.dec.rank
  | 0x40 => s.dec.cntMiss
  | 0x44 => s.dec.cntPart
  | 0x48 => s.dec.cntDec
  | 0x4C => s.gen.gdens
  | 0x50 => s.gen.gstate.setWidth 32
  | 0x54 => (s.gen.gstate >>> 32).setWidth 32
  | _ => 0

/-- A write of the register at an offset (44_engine_control.md R236): RO registers and reserved offsets ignore it. -/
def writeReg (off : Nat) (v : Word) (s : State) : State :=
  match off with
  | 0x08 => if v.toNat.testBit 31 then reset s else writeCtrl v s
  | 0x0C => writeStatus v s
  | 0x10 => issue v s
  | 0x14 => { s with ops := { s.ops with a0 := v } }
  | 0x18 => { s with ops := { s.ops with a1 := v } }
  | 0x1C => { s with ops := { s.ops with a2 := v } }
  | 0x20 => { s with ops := { s.ops with a3 := v } }
  | _ => s

/-- The address lies in the register window (10_state.md R21). -/
def inWindow (c : Config) (addr : Nat) : Bool := decide (c.regBase ≤ addr) && decide (addr < c.regBase + 256)

/-- The access is an aligned 32-bit one (10_state.md R21). -/
def portAligned (addr size : Nat) : Bool := decide (size = 4) && decide (addr % 4 = 0)

/-- The access gets a step: it is in the window, aligned, and 32 bits wide; else the named refusal
(10_state.md R21; log entry 13). -/
def portAccess (s : State) (addr size : Nat) (t : State) : Host.Outcome State Fault Refusal :=
  if inWindow s.config addr then
    if portAligned addr size then .next t else .refused .portAccess
  else .refused .outsideWindow

/-- A host register read (44_engine_control.md R237); 0 while the reset input is asserted
(70_reset_and_hazards.md R271). -/
def hostRegRead (addr size : Nat) (s : State) : Host.Outcome State Fault Refusal :=
  portAccess s addr size
    { s with hostData := some (if s.inReset then 0 else readReg s (addr - s.config.regBase)) }

/-- A host register write (44_engine_control.md R236); ignored while the reset input is asserted
(70_reset_and_hazards.md R271). -/
def hostRegWrite (addr size : Nat) (v : Word) (s : State) : Host.Outcome State Fault Refusal :=
  portAccess s addr size
    { (if s.inReset then s else writeReg (addr - s.config.regBase) v s) with hostData := none }

/-! ### The host's memory accesses (20_memory.md R73, R78) -/

/-- The host reaches a byte that exists and is ordinary memory (log entry 14). -/
def hostAccess (s : State) (addr : Nat) (t : State) : Host.Outcome State Fault Refusal :=
  if regionsHave s.config.devices addr then .refused .deviceAccess
  else if memOk s.config addr then .next t
  else .fault .unbackedHostAccess

/-- A host read of one byte. A byte the command in flight writes reads as any value, and the read is a race (R73). While a
decoder command that writes no memory is in flight, a byte of the matrix regions reads as what is stored, by R73 against
the bracket of 70_reset_and_hazards.md R276: the model's choice (log entry 22). -/
def hostMemRead (addr : Nat) (s : State) : Host.Outcome State Fault Refusal :=
  hostAccess s addr <|
    if regionsHave (writesInFlight s) addr then
      { s with hostData := some ((Config.anyByte s.fresh addr).setWidth 32), fresh := s.fresh + 1, raced := true }
    else { s with hostData := some ((Memory.read s.memory addr).setWidth 32) }

/-- A host write of one byte. A write of a byte the command in flight reads or writes is a race (R73); DEC_INIT and
DEC_QUERY read and write none (log entry 22). -/
def hostMemWrite (addr : Nat) (b : Byte) (s : State) : Host.Outcome State Fault Refusal :=
  hostAccess s addr
    { s with
      memory := Memory.write s.memory addr b
      hostData := none
      raced := s.raced || regionsHave (touchesInFlight s) addr }

end Sys2Proof.Machine
end

