-- ==== Sys2Proof/Machine/Engine.lean ====
section
/-! DEFINITION. The engine's step and the sequencing of the machine (44_engine_control.md R233-R235; log entries 4, 5). -/

namespace Sys2Proof.Machine

/-- The engine moves (44_engine_control.md R233): it decodes the latched word and runs the command; an illegal word
raises ERR_ILLEGAL (30_encoding.md R95). With no command in flight, or while the reset input is asserted, nothing
happens (10_state.md R40, 70_reset_and_hazards.md R271). -/
def engineStep (s : State) : Host.Outcome State Fault Refusal :=
  if s.inReset then .next s
  else
    match s.eng with
    | .idle => .next s
    | .busy l =>
      match decode l.cmd with
      | some i => exec i s
      | none => .next (raiseError .illegal l s)

/-- One input from outside, or the engine's turn. -/
def inputStep (i : Input) (s : State) : Host.Outcome State Fault Refusal :=
  match i with
  | .engine => engineStep s
  | .regRead addr size => hostRegRead addr size s
  | .regWrite addr size v => hostRegWrite addr size v s
  | .memRead addr => hostMemRead addr s
  | .memWrite addr b => hostMemWrite addr b s
  | .resetPin asserted => .next (setResetPin asserted s)

/-- One step of the machine: the oldest pending input; when none is pending, the engine moves, so an accepted command
always completes (44_engine_control.md R235). -/
def advance (s : State) : Host.Outcome State Fault Refusal :=
  match s.inputs with
  | [] => engineStep s
  | i :: rest => inputStep i { s with inputs := rest }

/-- The engine moves before the inputs do. -/
def engineFirst : List Input → List Input
  | [] => []
  | i :: rest => .engine :: i :: rest

/-- The command word `w` (bits above `nbits` zero) accepted for issue, and the engine's turn next (log entry 5). -/
def issueNext (s : State) (nbits w : Nat) : State :=
  { acceptCommand (BitVec.ofNat 32 (w % 2 ^ nbits)) s with inReset := false, inputs := engineFirst s.inputs }

end Sys2Proof.Machine
end

