-- ==== Sys2Proof/Machine/Step.lean ====
section
/-! DEFINITION. The machine's step, and the placing of one command where the next step runs it. -/

namespace Sys2Proof.Machine

/-- One step of KRC-FFE: a whole command is one step (20_memory.md R72, 44_engine_control.md R234; log entry 7). -/
def step (s : State) : Host.Outcome State Fault Refusal := advance s

/-- The state in which the very next step runs the command word `w` (log entry 5): the block fetches no instructions
(10_state.md R40), so this is the acceptance of a CMD write of `w` (44_engine_control.md R231). -/
def State.withFetchWord (s : State) (nbits w : Nat) : State := issueNext s nbits w

end Sys2Proof.Machine
end

