-- ==== Sys2Proof/Safety.lean ====
section
/-! DEFINITION. The terms in which claims are made: elements and matrices in memory, the invariants of the spec's
prose, the coefficient sequence of the generator, and runs (44_engine_control.md R238). -/

namespace Sys2Proof.Machine

/-! ### Elements and sums -/

/-- The element at an address, little-endian (20_memory.md R62). -/
def elemAt (f : Field) (m : Memory) (a : Nat) : Nat :=
  match f with
  | .gf8 => (Memory.read m a).toNat
  | .gf16 => (Memory.read m a).toNat + 256 * (Memory.read m (a + 1)).toNat

/-- The sum in the field of `g 0, …, g (n-1)` (40_gf_arith.md R111). -/
def gfSum (g : Nat → Nat) : Nat → Nat
  | 0 => 0
  | n + 1 => gfAdd (gfSum g n) (g n)

/-- a to the power n, by repeated gf_mul (40_gf_arith.md R113). -/
def gfPow (c : Config) (f : Field) (a : Nat) : Nat → Nat
  | 0 => 1
  | n + 1 => gfMul c f (gfPow c f a n) a

/-- Coefficient n of the product of the polynomials `a` and `b`, `b` of degree below w, over GF(2): the parity of the
number of ways x^n = x^(n-j)·x^j with both coefficients 1 (40_gf_arith.md R110, R112). -/
def productBit (w a b n : Nat) : Bool :=
  decide ((List.range w).countP (fun j => b.testBit j && decide (j ≤ n) && a.testBit (n - j)) % 2 = 1)

/-- Every byte of the regions answers without an error (20_memory.md R66). -/
def allMapped (c : Config) (rs : List Region) : Prop := ∀ a, regionsHave rs a = true → memOk c a = true

/-! ### The generator -/

/-- GSTATE after one draw, on natural numbers: three shifts of a 64-bit value, each added to it
(42_coeff_generator.md R162). -/
def nextState (g : Nat) : Nat :=
  let x := g ^^^ (g * 2 ^ 13 % 2 ^ 64)
  let y := x ^^^ (x / 2 ^ 7)
  y ^^^ (y * 2 ^ 17 % 2 ^ 64)

/-- The value a draw returns: bits 63:32 of the state it leaves (42_coeff_generator.md R162). -/
def drawOf (g : Nat) : Nat := nextState g / 2 ^ 32

/-- GSTATE after n coefficients drawn from `g` (42_coeff_generator.md R164). -/
def stateAfter (gen : Generator) (w : Nat) (g : BitVec 64) : Nat → BitVec 64
  | 0 => g
  | n + 1 => (drawCoef gen w (stateAfter gen w g n)).2

/-- The i-th coefficient drawn from `g` (42_coeff_generator.md R164). -/
def coefOf (gen : Generator) (w : Nat) (g : BitVec 64) (i : Nat) : Nat := (drawCoef gen w (stateAfter gen w g i)).1

/-- Bit i of a mask in memory, least significant bit first (42_coeff_generator.md R168). -/
def maskBit (m : Memory) (mk i : Nat) : Bool := (Memory.read m (mk + i / 8)).toNat.testBit (i % 8)

/-- GSTATE is never 0; GDENS is a valid density and (GFULL, GT) is its threshold (10_state.md R37). -/
def GeneratorWf (g : Generator) : Prop :=
  g.gstate ≠ 0 ∧ densityOk g.gdens = true ∧ (g.gfull, g.gt) = threshold g.gdens

/-! ### The decoder -/

/-- Coefficient (r, j) of the session (43_pivot_engine.md R191). -/
def coefAt (d : Decoder) (m : Memory) (r j : Nat) : Nat := elemAt d.dfield m (coefAddr d r j)

/-- Symbol element (r, k) of the session (43_pivot_engine.md R191). -/
def symAt (d : Decoder) (m : Memory) (r k : Nat) : Nat := elemAt d.dfield m (symAddr d r k)

/-- The number of nonzero coefficients of row r. -/
def rowNonzeros (d : Decoder) (m : Memory) (r : Nat) : Nat :=
  (List.range d.dn.toNat).countP fun j => decide (coefAt d m r j ≠ 0)

/-- The decoder SCAN leaves (43_pivot_engine.md R195): every PartiallyDecoded row with exactly one nonzero coefficient
becomes Decoded. -/
def scanned (m : Memory) (d : Decoder) : Decoder :=
  { d with
    stat := d.stat.mapIdx fun r x =>
      if r < d.dn.toNat ∧ x = .partiallyDecoded ∧ rowNonzeros d m r = 1 then .decoded else x }

/-- The first nonzero element of a row is at `col` (43_pivot_engine.md R199, step 3). -/
def firstNonzeroAt (v : List Nat) (col : Nat) : Prop :=
  col < v.length ∧ v.getD col 0 ≠ 0 ∧ ∀ j < col, v.getD j 0 = 0

/-- SCAN if the latched SU is set (43_pivot_engine.md R199). -/
def scannedIf (su : Bool) (m : Memory) (d : Decoder) : Decoder := if su then scanned m d else d

/-- The N elements at an address, as DEC_CONSUME reads its coefficient vector (43_pivot_engine.md R199). -/
def vectorAt (d : Decoder) (m : Memory) (a : Nat) : List Nat :=
  (List.range d.dn.toNat).map fun j => elemAt d.dfield m (a + j * d.dfield.bytes)

/-- The factor of pivot p for a vector whose element p is x (43_pivot_engine.md R192): 0 if row p is not stored. At a
stored pivot 0 FORWARD stops (`zeroPivotAt`), and what this function gives there means nothing (log entry 23). -/
def pivotFactor (c : Config) (d : Decoder) (m : Memory) (p x : Nat) : Nat :=
  if pivAt d p = true ∧ x ≠ 0 then gfDiv c d.dfield x (coefAt d m p p) else 0

/-- The vector `v` reduced by the pivots 0, …, p-1 in this order (43_pivot_engine.md R192). -/
def reduction (c : Config) (d : Decoder) (m : Memory) (v : Nat → Nat) : Nat → Nat → Nat
  | 0, j => v j
  | p + 1, j =>
    gfAdd (reduction c d m v p j)
      (gfMul c d.dfield (pivotFactor c d m p (reduction c d m v p p)) (coefAt d m p j))

/-- The reduction of `v` divides by a stored pivot 0 at p (43_pivot_engine.md R192). -/
def zeroPivotAt (c : Config) (d : Decoder) (m : Memory) (v : Nat → Nat) (p : Nat) : Prop :=
  pivAt d p = true ∧ reduction c d m v p p ≠ 0 ∧ coefAt d m p p = 0

/-- Row r of the coefficient matrix (43_pivot_engine.md R191). -/
def coefRow (d : Decoder) (r : Nat) : Region := elemRegion d.dfield (coefAddr d r 0) d.dn.toNat

/-- The elements of row r of the symbol matrix (43_pivot_engine.md R191). -/
def symRow (d : Decoder) (r : Nat) : Region := elemRegion d.dfield (symAddr d r 0) (symElems d)

/-- INV (43_pivot_engine.md R190): a stored row has 1 at its pivot, 0 before it and 0 at every other pivot column, and
RANK is the number of stored rows. -/
def MatrixInv (d : Decoder) (m : Memory) : Prop :=
  (∀ r < d.dn.toNat, pivAt d r = true →
    coefAt d m r r = 1 ∧
    (∀ j < r, coefAt d m r j = 0) ∧
    (∀ p < d.dn.toNat, p ≠ r → pivAt d p = true → coefAt d m r p = 0)) ∧
  d.rank.toNat = (List.range d.dn.toNat).countP (pivAt d)

/-- A Decoded row is the unit row (43_pivot_engine.md R206). -/
def DecodedUnit (d : Decoder) (m : Memory) : Prop :=
  ∀ r < d.dn.toNat, statAt d r = .decoded → ∀ j < d.dn.toNat, j ≠ r → coefAt d m r j = 0

/-- Every stored row is a true combination of the originals `x j k`, original j, element k
(43_pivot_engine.md R205). -/
def Consistent (c : Config) (d : Decoder) (m : Memory) (x : Nat → Nat → Nat) : Prop :=
  ∀ r < d.dn.toNat, pivAt d r = true → ∀ k < symElems d,
    symAt d m r k = gfSum (fun j => gfMul c d.dfield (coefAt d m r j) (x j k)) d.dn.toNat

/-- The bookkeeping of the decoder (10_state.md R33-R39): the arrays have NMAX entries; PIV = 1 iff STAT is not Missing;
entries at or above DN are 0; RANK and the counts are what they count. -/
def DecoderCounts (c : Config) (d : Decoder) : Prop :=
  d.piv.length = c.nmax ∧ d.stat.length = c.nmax ∧ d.dn.toNat ≤ c.nmax ∧
  (∀ r, pivAt d r = true ↔ statAt d r ≠ .missing) ∧
  (∀ r, d.dn.toNat ≤ r → pivAt d r = false) ∧
  d.rank.toNat = (List.range d.dn.toNat).countP (pivAt d) ∧
  d.cntMiss.toNat = countStat d .missing ∧
  d.cntPart.toNat = countStat d .partiallyDecoded ∧
  d.cntDec.toNat = countStat d .decoded

/-- Without a session the counts are 0 (10_state.md R35), as after reset; a consume that a bus error ended leaves them as
they were (60_exceptions.md R246; log entry 11). -/
def CountsZeroWithoutSession (d : Decoder) : Prop :=
  d.init = false → d.cntMiss = 0 ∧ d.cntPart = 0 ∧ d.cntDec = 0

/-- What a DEC_INIT has checked of the session it bound (43_pivot_engine.md R197). -/
def SessionGeometry (d : Decoder) : Prop :=
  inRange (coefRegion d) = true ∧ inRange (symRegion d) = true ∧
  addressAligned d.dfield d.dcoef.toNat = true ∧ addressAligned d.dfield d.dsym.toNat = true ∧
  d.ds.toNat % d.dfield.bytes = 0 ∧
  regionsMeet (coefRegion d) (symRegion d) = false ∧
  (d.init = true → 1 ≤ d.dn.toNat ∧ 1 ≤ d.ds.toNat)

/-- The decoder is as the commands leave it, whatever the host did to memory. -/
def DecoderWf (c : Config) (d : Decoder) : Prop := DecoderCounts c d ∧ SessionGeometry d

/-! ### The whole machine -/

/-- The error state and the engine agree (10_state.md R30, 44_engine_control.md R231, R233): ERRCODE is 0 while ERR = 0
and one of the codes while ERR = 1; a command in flight means ERR = DONE = 0 and LASTCMD is its word; a race is about a
command in flight; while the reset input is asserted the block holds its reset values. -/
def ControlWf (s : State) : Prop :=
  (s.status.err = false → s.status.errCode = 0) ∧
  (s.status.err = true → 1 ≤ s.status.errCode.toNat ∧ s.status.errCode.toNat ≤ 11) ∧
  (∀ l, s.eng = .busy l → s.status.err = false ∧ s.status.done = false ∧ s.lastCmd = l.cmd) ∧
  (s.eng = .idle → s.raced = false) ∧
  (s.inReset = true → resetBlock s = s)

/-- An input that gets a step: an aligned 32-bit register access in the window (10_state.md R21), a host memory access
to backed ordinary memory, the reset input, or the engine's turn. -/
def inputAdmitted (c : Config) : Input → Bool
  | .engine => true
  | .regRead addr size => inWindow c addr && portAligned addr size
  | .regWrite addr size _ => inWindow c addr && portAligned addr size
  | .memRead addr => !regionsHave c.devices addr && memOk c addr
  | .memWrite addr _ => !regionsHave c.devices addr && memOk c addr
  | .resetPin _ => true

/-- Bytes a command whose checks hold reads or writes whatever memory holds: all of the buffers of the bulk commands,
whatever the scalar (41_row_combiner.md R143) and the mask (42_coeff_generator.md R168); the coefficient vector of
DEC_CONSUME (43_pivot_engine.md R199); the symbol and the new row of a DEC_CONSUME_SYS at an empty index (R200); and the
PartiallyDecoded rows of a DEC_UPDATE_STATUS (R195). -/
def certainAccesses (i : Instr) (l : Latched) (d : Decoder) : List Region :=
  match i with
  | .nop => []
  | .gfAdd _ => []
  | .gfMul _ => []
  | .gfDiv _ => []
  | .gfInv _ => []
  | .rowAxpy _ => [rowDst l, rowSrc l]
  | .rowScale _ => [rowDst l]
  | .genSeed => []
  | .genDensity => []
  | .genFill f => [fillOut f l]
  | .genFillPartial f => [fillOut f l, fillMask l]
  | .decInit _ => []
  | .decConsume _ => [consumeVector d l]
  | .decConsumeSys _ =>
    if pivAt d l.ops.a0.toNat then []
    else
      [elemRegion d.dfield l.ops.a1.toNat (symElems d), coefRow d l.ops.a0.toNat, symRow d l.ops.a0.toNat]
  | .decUpdateStatus _ =>
    ((List.range d.dn.toNat).filter fun r => decide (statAt d r = .partiallyDecoded)).map (coefRow d)
  | .decQuery _ => []

/-- The next step is the engine's: nothing is pending, or the engine's turn is. -/
def engineNext (s : State) : Prop := s.inputs = [] ∨ s.inputs.head? = some .engine

/-- The successful end of a command (44_engine_control.md R233): the engine is idle and DONE is set. -/
def finished (s : State) : State := { s with eng := .idle, status := { s.status with done := true }, raced := false }

/-- The end of a command with error code `code` (60_exceptions.md R244): ERR, ERRCODE and ERRCMD are written, the
engine is idle and DONE is set. -/
def failed (code : BitVec 8) (l : Latched) (s : State) : State :=
  { s with
    eng := .idle
    errCmd := l.cmd
    status := { s.status with done := true, err := true, errCode := code }
    raced := false }

/-- `n` steps lead from `s` to `t`. -/
def stepsTo : Nat → State → State → Prop
  | 0, s, t => s = t
  | n + 1, s, t => ∃ u, step s = .next u ∧ stepsTo n u t

/-- The input resets the block: the reset input, or a CTRL write with bit 31 = 1 (70_reset_and_hazards.md R270). -/
def resetsBlock (c : Config) : Input → Bool
  | .engine => false
  | .regRead _ _ => false
  | .regWrite addr _ v => decide (addr = c.regBase + 0x08) && v.toNat.testBit 31
  | .memRead _ => false
  | .memWrite _ _ => false
  | .resetPin _ => true

/-- The step from `s` to `u` ends the command in flight with an error (60_exceptions.md R244). -/
def commandFails (s u : State) : Bool := isBusy s && !isBusy u && u.status.err

/-- `n` steps lead from `s` to `t`, and no command of them ends with an error. -/
def noCommandFails : Nat → State → State → Prop
  | 0, s, t => s = t
  | n + 1, s, t => ∃ u, step s = .next u ∧ commandFails s u = false ∧ noCommandFails n u t

/-- A run of a host program, the pending inputs of `s`, ends in `t` (44_engine_control.md R238): the host has executed
its last line and the engine is idle. -/
def runEnds (n : Nat) (s t : State) : Prop := stepsTo n s t ∧ t.inputs = [] ∧ t.eng = .idle

/-- The run ends cleanly (44_engine_control.md R238): in addition ERR = 0 and CMDLOST = 0 at its end, and no command of
the run ended with an error. R238 says nothing of a run in which the host broke 20_memory.md R73 or a reset was taken:
that the definition has no condition on them, so that such a run can be clean here, is the model's choice (log
entry 21). -/
def cleanRun (n : Nat) (s t : State) : Prop :=
  runEnds n s t ∧ noCommandFails n s t ∧ t.status.err = false ∧ t.status.cmdLost = false

end Sys2Proof.Machine
end

