-- ==== Sys2Proof/Certificates/Slice0/Obligations.lean ====
section
/-! DEFINITION. The statements for the provers. Each docstring names the rule of spec/ it formalises or rests on.
`finished` and `failed` (Safety.lean) are the record a successful command and an erring one end in; a conclusion
`exec i s = .next (finished { s with … })` is the whole next state, so it is the command's frame as well. -/

open Sys2Proof Sys2Proof.Machine

/-! ### Encoding -/

/-- The worked encodings of 30_encoding.md section 5, which the spec marks as its own inference from its encoding
rules. -/
def Obligations.WorkedEncodingsDecode : Prop :=
  (decode 0x00000002 = some (.gfMul .gf8) ∧ encode (.gfMul .gf8) = 0x00000002) ∧
  (decode 0x00000102 = some (.gfMul .gf16) ∧ encode (.gfMul .gf16) = 0x00000102) ∧
  (decode 0x00000110 = some (.rowAxpy .gf16) ∧ encode (.rowAxpy .gf16) = 0x00000110) ∧
  (decode 0x00000020 = some .genSeed ∧ encode .genSeed = 0x00000020) ∧
  (decode 0x00000031 = some (.decConsume .gf8) ∧ encode (.decConsume .gf8) = 0x00000031) ∧
  (decode 0x00000130 = some (.decInit .gf16) ∧ encode (.decInit .gf16) = 0x00000130) ∧
  decode 0x00000120 = none ∧ decode 0x00000005 = none

/-- Decoding and encoding are inverse, over every command and every 32-bit word (30_encoding.md R91, R93). -/
def Obligations.DecodeAndEncodeAgree : Prop := ∀ (w : Word) (i : Instr), decode w = some i ↔ encode i = w

/-- 30_encoding.md R94: the words a decoder selects a command from, as fields and in match/mask form; F = w[8]; and the
opcode of each of the sixteen commands (section 3). -/
def Obligations.DecoderAcceptsExactlyTheOpcodeMap : Prop :=
  ∀ w : Word,
    ((decode w).isSome = true ↔
      w.toNat % 256 ∈ [0x00, 0x01, 0x02, 0x03, 0x04, 0x10, 0x11, 0x20, 0x21, 0x22, 0x23, 0x30, 0x31, 0x32, 0x33, 0x34] ∧
      w.toNat / 512 = 0 ∧
      (w.toNat % 256 ∈ [0x00, 0x20, 0x21] → w.toNat.testBit 8 = false)) ∧
    (decode w).isSome = legalWord w ∧
    (∀ i f, decode w = some i → i.fieldOf = some f → fieldBit f = w.toNat.testBit 8) ∧
    ∀ i, decode w = some i →
      w.toNat % 256 =
        match i with
        | .nop => 0x00
        | .gfAdd _ => 0x01
        | .gfMul _ => 0x02
        | .gfDiv _ => 0x03
        | .gfInv _ => 0x04
        | .rowAxpy _ => 0x10
        | .rowScale _ => 0x11
        | .genSeed => 0x20
        | .genDensity => 0x21
        | .genFill _ => 0x22
        | .genFillPartial _ => 0x23
        | .decInit _ => 0x30
        | .decConsume _ => 0x31
        | .decConsumeSys _ => 0x32
        | .decUpdateStatus _ => 0x33
        | .decQuery _ => 0x34

/-! ### Issue, execution, completion -/

/-- When the engine moves and the latched word decodes to `i`, the step is `exec i` at that state, the pending engine
turn taken off the inputs (44_engine_control.md section 3; log entry 4). When it moves with no command in flight, nothing
else changes (10_state.md section 9, 20_memory.md section 1). -/
def Obligations.StepRunsTheDecodedCommand : Prop :=
  (∀ (s : State) (l : Latched) (i : Instr),
    s.inReset = false → s.eng = .busy l → decode l.cmd = some i → engineNext s →
    step s = exec i { s with inputs := s.inputs.tail }) ∧
  ∀ s : State,
    s.inReset = false → s.eng = .idle → engineNext s → step s = .next { s with inputs := s.inputs.tail }

/-- An illegal word in flight ends with ERR_ILLEGAL, changing nothing but the error state (30_encoding.md section 4). -/
def Obligations.IllegalWordEndsWithErrIllegal : Prop :=
  ∀ (s : State) (l : Latched),
    s.inReset = false → s.eng = .busy l → decode l.cmd = none → engineNext s →
    step s = .next (failed 0x01 l { s with inputs := s.inputs.tail })

/-- A host write to CMD with the engine idle and ERR = 0 is accepted, whatever the word: the engine latches the word,
A0-A3, SU and SYSDUP; LASTCMD is the word; DONE is cleared (44_engine_control.md section 2). -/
def Obligations.CommandIssueIsAccepted : Prop :=
  ∀ (s : State) (rest : List Input) (w : Word),
    s.inputs = .regWrite (s.config.regBase + 0x10) 4 w :: rest → s.config.regBase % 256 = 0 → s.inReset = false →
    s.eng = .idle → s.status.err = false →
    step s = .next { s with
      inputs := rest
      hostData := none
      eng := .busy { cmd := w, ops := s.ops, su := s.ctrl.su, sysdup := s.ctrl.sysdup }
      lastCmd := w
      status := { s.status with done := false }
      raced := false }

/-- 44_engine_control.md R232: a CMD write while a command is in flight or while ERR = 1 sets CMDLOST and changes nothing
else (`hostData` and `inputs` are the model's own fields: log entries 4 and 6). -/
def Obligations.CommandIssueIsRefusedWhileBusyOrErr : Prop :=
  ∀ (s : State) (rest : List Input) (w : Word),
    s.inputs = .regWrite (s.config.regBase + 0x10) 4 w :: rest → s.config.regBase % 256 = 0 → s.inReset = false →
    (isBusy s = true ∨ s.status.err = true) →
    step s = .next { s with inputs := rest, hostData := none, status := { s.status with cmdLost := true } }

/-- A command reads only its latched copies of A0-A3, SU and SYSDUP, and writes neither A0-A3 nor CTRL
(44_engine_control.md section 2, 10_state.md section 3, 70_reset_and_hazards.md section 3). -/
def Obligations.CommandsIgnoreLiveOperandsAndCtrl : Prop :=
  ∀ (i : Instr) (s t : State) (o : Operands) (k : Ctrl),
    exec i s = .next t →
    t.ops = s.ops ∧ t.ctrl = s.ctrl ∧ exec i { s with ops := o, ctrl := k } = .next { t with ops := o, ctrl := k }

/-- 44_engine_control.md R230: NOP, the word 0 and no other, completes and changes nothing else. -/
def Obligations.NopOnlyCompletes : Prop :=
  (∀ w : Word, decode w = some .nop ↔ w = 0x00000000) ∧
  ∀ (s : State) (l : Latched), s.eng = .busy l → exec .nop s = .next (finished s)

/-! ### Field arithmetic -/

/-- 40_gf_arith.md R116: GF_ADD, for every operand. -/
def Obligations.GfAddWritesTheSum : Prop :=
  ∀ (f : Field) (s : State) (l : Latched), s.eng = .busy l →
    exec (.gfAdd f) s =
      if 2 ^ f.width ≤ l.ops.a0.toNat ∨ 2 ^ f.width ≤ l.ops.a1.toNat then .next (failed 0x02 l s)
      else .next (finished { s with res := l.ops.a0 ^^^ l.ops.a1 })

/-- 40_gf_arith.md R117: GF_MUL, for every operand. -/
def Obligations.GfMulWritesTheProduct : Prop :=
  ∀ (f : Field) (s : State) (l : Latched), s.eng = .busy l →
    exec (.gfMul f) s =
      if 2 ^ f.width ≤ l.ops.a0.toNat ∨ 2 ^ f.width ≤ l.ops.a1.toNat then .next (failed 0x02 l s)
      else .next (finished { s with res := BitVec.ofNat 32 (gfMul s.config f l.ops.a0.toNat l.ops.a1.toNat) })

/-- 40_gf_arith.md R118: GF_DIV, for every operand: the range check first, then ERR_DIV0, then a times the inverse
of b (R114). -/
def Obligations.GfDivWritesTheQuotient : Prop :=
  ∀ (f : Field) (s : State) (l : Latched), s.eng = .busy l →
    exec (.gfDiv f) s =
      if 2 ^ f.width ≤ l.ops.a0.toNat ∨ 2 ^ f.width ≤ l.ops.a1.toNat then .next (failed 0x02 l s)
      else if l.ops.a1 = 0 then .next (failed 0x09 l s)
      else .next (finished { s with
        res := BitVec.ofNat 32 (gfMul s.config f l.ops.a0.toNat (gfInv s.config f l.ops.a1.toNat)) })

/-- 40_gf_arith.md R119: GF_INV, for every operand. -/
def Obligations.GfInvWritesTheInverse : Prop :=
  ∀ (f : Field) (s : State) (l : Latched), s.eng = .busy l →
    exec (.gfInv f) s =
      if 2 ^ f.width ≤ l.ops.a0.toNat then .next (failed 0x02 l s)
      else if l.ops.a0 = 0 then .next (failed 0x09 l s)
      else .next (finished { s with res := BitVec.ofNat 32 (gfInv s.config f l.ops.a0.toNat) })

/-- gf_mul is the product of polynomials over GF(2) modulo P_w: it differs from the product by a multiple q·P_w, and is
below 2^w (40_gf_arith.md section 1). -/
def Obligations.ProductIsReducedModuloThePolynomial : Prop :=
  ∀ (c : Config) (f : Field) (a b : Nat),
    c.wellFormed = true → a < 2 ^ f.width → b < 2 ^ f.width →
    gfMul c f a b < 2 ^ f.width ∧
    ∃ q < 2 ^ f.width, ∀ n,
      (gfMul c f a b).testBit n = (productBit f.width a b n ^^ productBit f.width (c.poly f) q n)

/-- The field laws and the inverse of 40_gf_arith.md section 1 (R115 is the spec's own inference), for every pair of
irreducible polynomials. -/
def Obligations.FieldLawsHold : Prop :=
  ∀ (c : Config) (f : Field) (a b d : Nat),
    c.wellFormed = true → a < 2 ^ f.width → b < 2 ^ f.width → d < 2 ^ f.width →
    gfAdd a b < 2 ^ f.width ∧ gfMul c f a b < 2 ^ f.width ∧
    gfAdd a b = gfAdd b a ∧ gfMul c f a b = gfMul c f b a ∧
    gfAdd (gfAdd a b) d = gfAdd a (gfAdd b d) ∧ gfMul c f (gfMul c f a b) d = gfMul c f a (gfMul c f b d) ∧
    gfMul c f a (gfAdd b d) = gfAdd (gfMul c f a b) (gfMul c f a d) ∧
    gfAdd a 0 = a ∧ gfAdd a a = 0 ∧ gfMul c f a 0 = 0 ∧ gfMul c f a 1 = a ∧
    (gfMul c f a b = 0 ↔ a = 0 ∨ b = 0) ∧
    (b ≠ 0 → gfDiv c f (gfMul c f a b) b = a) ∧
    (a ≠ 0 → gfInv c f a < 2 ^ f.width ∧ gfMul c f a (gfInv c f a) = 1 ∧ gfInv c f (gfInv c f a) = a ∧
      gfInv c f a = gfPow c f a (2 ^ f.width - 2)) ∧
    gfInv c f 1 = 1

/-! ### Row combiner -/

/-- ROW_AXPY whose checks hold and whose buffers answer: every element of dst gets s times the element of src added, an
exact alias and L = 0 included, and every other byte and register stays (41_row_combiner.md section 1). -/
def Obligations.RowAxpyCombinesEveryLane : Prop :=
  ∀ (f : Field) (s : State) (l : Latched),
    s.config.wellFormed = true → Memory.wf s.memory → s.eng = .busy l → disturbed (.rowAxpy f) l s = false →
    l.ops.a3.toNat < 2 ^ f.width →
    l.ops.a0.toNat + l.ops.a2.toNat ≤ 2 ^ 32 → l.ops.a1.toNat + l.ops.a2.toNat ≤ 2 ^ 32 →
    l.ops.a0.toNat % f.bytes = 0 → l.ops.a1.toNat % f.bytes = 0 → l.ops.a2.toNat % f.bytes = 0 →
    partialOverlap (rowDst l) (rowSrc l) = false →
    allMapped s.config [rowDst l, rowSrc l] →
    ∃ m : Memory,
      exec (.rowAxpy f) s = .next (finished { s with memory := m }) ∧
      (∀ i < l.ops.a2.toNat / f.bytes,
        elemAt f m (l.ops.a0.toNat + i * f.bytes) =
          gfAdd (elemAt f s.memory (l.ops.a0.toNat + i * f.bytes))
            (gfMul s.config f l.ops.a3.toNat (elemAt f s.memory (l.ops.a1.toNat + i * f.bytes)))) ∧
      ∀ a, regionHas (rowDst l) a = false → Memory.read m a = Memory.read s.memory a

/-- ROW_SCALE whose checks hold and whose buffer answers: every element is multiplied by s, every other byte and register
stays (41_row_combiner.md section 1). -/
def Obligations.RowScaleMultipliesEveryLane : Prop :=
  ∀ (f : Field) (s : State) (l : Latched),
    s.config.wellFormed = true → Memory.wf s.memory → s.eng = .busy l → disturbed (.rowScale f) l s = false →
    l.ops.a3.toNat < 2 ^ f.width → l.ops.a0.toNat + l.ops.a2.toNat ≤ 2 ^ 32 →
    l.ops.a0.toNat % f.bytes = 0 → l.ops.a2.toNat % f.bytes = 0 →
    allMapped s.config [rowDst l] →
    ∃ m : Memory,
      exec (.rowScale f) s = .next (finished { s with memory := m }) ∧
      (∀ i < l.ops.a2.toNat / f.bytes,
        elemAt f m (l.ops.a0.toNat + i * f.bytes) =
          gfMul s.config f l.ops.a3.toNat (elemAt f s.memory (l.ops.a0.toNat + i * f.bytes))) ∧
      ∀ a, regionHas (rowDst l) a = false → Memory.read m a = Memory.read s.memory a

/-- 41_row_combiner.md R140: the checks of both ROW commands, in their order, before any memory access. -/
def Obligations.RowCommandsCheckInOrder : Prop :=
  ∀ (f : Field) (s : State) (l : Latched), s.eng = .busy l →
    let dst := l.ops.a0.toNat
    let src := l.ops.a1.toNat
    let len := l.ops.a2.toNat
    let badRange := 2 ^ f.width ≤ l.ops.a3.toNat ∨ 2 ^ 32 < dst + len
    let badSrc := 2 ^ 32 < src + len
    let badDstAlign := f = .gf16 ∧ dst % 2 = 1
    let badSrcAlign := f = .gf16 ∧ src % 2 = 1
    let badLen := f = .gf16 ∧ len % 2 = 1
    (badRange ∨ badSrc → exec (.rowAxpy f) s = .next (failed 0x02 l s)) ∧
    (¬(badRange ∨ badSrc) → badDstAlign ∨ badSrcAlign → exec (.rowAxpy f) s = .next (failed 0x03 l s)) ∧
    (¬(badRange ∨ badSrc) → ¬(badDstAlign ∨ badSrcAlign) → badLen →
      exec (.rowAxpy f) s = .next (failed 0x04 l s)) ∧
    (¬(badRange ∨ badSrc) → ¬(badDstAlign ∨ badSrcAlign) → ¬badLen →
      dst ≠ src ∧ 0 < len ∧ dst < src + len ∧ src < dst + len →
      exec (.rowAxpy f) s = .next (failed 0x05 l s)) ∧
    (badRange → exec (.rowScale f) s = .next (failed 0x02 l s)) ∧
    (¬badRange → badDstAlign → exec (.rowScale f) s = .next (failed 0x03 l s)) ∧
    (¬badRange → ¬badDstAlign → badLen → exec (.rowScale f) s = .next (failed 0x04 l s))

/-! ### Coefficient generator -/

/-- The valid densities and their thresholds: 1.0 is dense; below it, GT is the floor of d·2^32, where d is
sig·2^(e-150), and m·2^(-149) for a subnormal (42_coeff_generator.md section 1, density). -/
def Obligations.DensityThresholdIsTheFloor : Prop :=
  ∀ d : Word,
    (densityOk d = true ↔ 0x00000001 ≤ d.toNat ∧ d.toNat ≤ 0x3F800000) ∧
    (d.toNat = 0x3F800000 → threshold d = (true, 0)) ∧
    (densityOk d = true → d.toNat ≠ 0x3F800000 →
      (threshold d).1 = false ∧
      (threshold d).2.toNat =
        (if d.toNat / 2 ^ 23 = 0 then d.toNat * 2 ^ 32 / 2 ^ 149
         else (2 ^ 23 + d.toNat % 2 ^ 23) * 2 ^ (d.toNat / 2 ^ 23) * 2 ^ 32 / 2 ^ 150) ∧
      (threshold d).2.toNat ≤ 0xFFFFFF00)

/-- 42_coeff_generator.md R165: GEN_SEED, the word 0x20 and no other, loads the seed's state; density and thresholds
stay. -/
def Obligations.GenSeedLoadsTheSeedState : Prop :=
  (∀ w : Word, decode w = some .genSeed ↔ w = 0x00000020) ∧
  ∀ (s : State) (l : Latched), s.eng = .busy l →
    exec .genSeed s =
      .next (finished { s with gen := { s.gen with gstate := l.ops.a0 ++ (l.ops.a0 ^^^ 0xFFFFFFFF) } })

/-- 42_coeff_generator.md R166: GEN_DENSITY, for every operand; GSTATE stays. -/
def Obligations.GenDensitySetsTheThreshold : Prop :=
  ∀ (s : State) (l : Latched), s.eng = .busy l →
    exec .genDensity s =
      if 1 ≤ l.ops.a0.toNat ∧ l.ops.a0.toNat ≤ 0x3F800000 then
        .next (finished { s with
          gen := { s.gen with
            gdens := l.ops.a0
            gfull := (threshold l.ops.a0).1
            gt := (threshold l.ops.a0).2 } })
      else .next (failed 0x08 l s)

/-- What one coefficient draw gives (42_coeff_generator.md section 1): one state step when dense or forced to zero, two when
kept, the low w bits of the last value drawn. And GEN_FILL whose checks hold and whose buffer answers: the elements are
the coefficients drawn from GSTATE in order, GSTATE is the one after n coefficients, every other byte and register stays
(section 2). -/
def Obligations.GenFillWritesTheDrawnVector : Prop :=
  (∀ (gen : Generator) (w : Nat) (g : BitVec 64),
    let u := drawOf g.toNat
    let g1 := nextState g.toNat
    (gen.gfull = true → (drawCoef gen w g).1 = u % 2 ^ w ∧ (drawCoef gen w g).2.toNat = g1) ∧
    (gen.gfull = false → u < gen.gt.toNat →
      (drawCoef gen w g).1 = drawOf g1 % 2 ^ w ∧ (drawCoef gen w g).2.toNat = nextState g1) ∧
    (gen.gfull = false → gen.gt.toNat ≤ u → (drawCoef gen w g).1 = 0 ∧ (drawCoef gen w g).2.toNat = g1)) ∧
  ∀ (f : Field) (s : State) (l : Latched),
    Memory.wf s.memory → s.eng = .busy l → disturbed (.genFill f) l s = false →
    l.ops.a0.toNat + l.ops.a1.toNat * f.bytes ≤ 2 ^ 32 → l.ops.a0.toNat % f.bytes = 0 →
    allMapped s.config [fillOut f l] →
    ∃ m : Memory,
      exec (.genFill f) s =
        .next (finished { s with
          gen := { s.gen with gstate := stateAfter s.gen f.width s.gen.gstate l.ops.a1.toNat }
          memory := m }) ∧
      (∀ i < l.ops.a1.toNat,
        elemAt f m (l.ops.a0.toNat + i * f.bytes) = coefOf s.gen f.width s.gen.gstate i) ∧
      ∀ a, regionHas (fillOut f l) a = false → Memory.read m a = Memory.read s.memory a

/-- GEN_FILL_PARTIAL whose checks hold and whose buffers answer: the vector GEN_FILL would write from the same state with
the undefined indices set to 0, and the same GSTATE (42_coeff_generator.md section 2); what a draw gives is the first
clause of GenFillWritesTheDrawnVector. -/
def Obligations.GenFillPartialMasksTheDrawnVector : Prop :=
  ∀ (f : Field) (s : State) (l : Latched),
    Memory.wf s.memory → s.eng = .busy l → disturbed (.genFillPartial f) l s = false →
    l.ops.a0.toNat + l.ops.a1.toNat * f.bytes ≤ 2 ^ 32 → l.ops.a2.toNat + (l.ops.a1.toNat + 7) / 8 ≤ 2 ^ 32 →
    l.ops.a0.toNat % f.bytes = 0 → regionsMeet (fillOut f l) (fillMask l) = false →
    allMapped s.config [fillOut f l, fillMask l] →
    ∃ m : Memory,
      exec (.genFillPartial f) s =
        .next (finished { s with
          gen := { s.gen with gstate := stateAfter s.gen f.width s.gen.gstate l.ops.a1.toNat }
          memory := m }) ∧
      (∀ i < l.ops.a1.toNat,
        elemAt f m (l.ops.a0.toNat + i * f.bytes) =
          if maskBit s.memory l.ops.a2.toNat i then coefOf s.gen f.width s.gen.gstate i else 0) ∧
      ∀ a, regionHas (fillOut f l) a = false → Memory.read m a = Memory.read s.memory a

/-- The checks of the fills, in their order, before any memory access (42_coeff_generator.md section 2). -/
def Obligations.FillCommandsCheckInOrder : Prop :=
  ∀ (f : Field) (s : State) (l : Latched), s.eng = .busy l →
    let out := l.ops.a0.toNat
    let bytes := l.ops.a1.toNat * f.bytes
    let mk := l.ops.a2.toNat
    let mb := (l.ops.a1.toNat + 7) / 8
    let badAlign := f = .gf16 ∧ out % 2 = 1
    (2 ^ 32 < out + bytes → exec (.genFill f) s = .next (failed 0x02 l s)) ∧
    (out + bytes ≤ 2 ^ 32 → badAlign → exec (.genFill f) s = .next (failed 0x03 l s)) ∧
    (2 ^ 32 < out + bytes ∨ 2 ^ 32 < mk + mb → exec (.genFillPartial f) s = .next (failed 0x02 l s)) ∧
    (out + bytes ≤ 2 ^ 32 → mk + mb ≤ 2 ^ 32 → badAlign → exec (.genFillPartial f) s = .next (failed 0x03 l s)) ∧
    (out + bytes ≤ 2 ^ 32 → mk + mb ≤ 2 ^ 32 → ¬badAlign →
      0 < l.ops.a1.toNat ∧ out < mk + mb ∧ mk < out + bytes →
      exec (.genFillPartial f) s = .next (failed 0x05 l s))

/-- Which commands write which registers (10_state.md sections 3, 6, 7 and 10): a command outside the seven leaves RES;
GSTATE is written only by GEN_SEED and the fills; GDENS, GFULL and GT only by GEN_DENSITY; DN, DS, DCOEF, DSYM and DFIELD
only by DEC_INIT; RANK, DEP, PIV and INIT only by DEC_INIT and the consumes; and STAT and the counts by these and
DEC_UPDATE_STATUS. That DEC_INIT writes DEP is log entry 20. -/
def Obligations.RegistersAreWrittenOnlyByTheirCommands : Prop :=
  ∀ (i : Instr) (s t : State), exec i s = .next t →
    ((∀ f, i ≠ .gfAdd f ∧ i ≠ .gfMul f ∧ i ≠ .gfDiv f ∧ i ≠ .gfInv f ∧ i ≠ .decConsume f ∧ i ≠ .decConsumeSys f ∧
      i ≠ .decQuery f) → t.res = s.res) ∧
    ((∀ f, i ≠ .genSeed ∧ i ≠ .genFill f ∧ i ≠ .genFillPartial f) → t.gen.gstate = s.gen.gstate) ∧
    (i ≠ .genDensity → t.gen.gdens = s.gen.gdens ∧ t.gen.gfull = s.gen.gfull ∧ t.gen.gt = s.gen.gt) ∧
    ((∀ f, i ≠ .decInit f) →
      t.dec.dn = s.dec.dn ∧ t.dec.ds = s.dec.ds ∧ t.dec.dcoef = s.dec.dcoef ∧ t.dec.dsym = s.dec.dsym ∧
      t.dec.dfield = s.dec.dfield) ∧
    ((∀ f, i ≠ .decInit f ∧ i ≠ .decConsume f ∧ i ≠ .decConsumeSys f) →
      t.dec.rank = s.dec.rank ∧ t.dec.dep = s.dec.dep ∧ t.dec.piv = s.dec.piv ∧ t.dec.init = s.dec.init) ∧
    ((∀ f, i ≠ .decInit f ∧ i ≠ .decConsume f ∧ i ≠ .decConsumeSys f ∧ i ≠ .decUpdateStatus f) → t.dec = s.dec) ∧
    (t.status.err = true → s.status.err = false → t.dec.dep = s.dec.dep ∧ t.dec.rank = s.dec.rank)

/-! ### Pivot engine -/

/-- 43_pivot_engine.md R197: DEC_INIT, for every operand: the checks in their order, then a new session; it accesses no
memory. -/
def Obligations.DecInitBindsANewSession : Prop :=
  ∀ (f : Field) (s : State) (l : Latched), s.eng = .busy l →
    let n := l.ops.a0.toNat
    let sz := l.ops.a1.toNat
    let cb := l.ops.a2.toNat
    let sb := l.ops.a3.toNat
    exec (.decInit f) s =
      if n = 0 ∨ s.config.nmax < n ∨ sz = 0 then .next (failed 0x02 l s)
      else if 2 ^ 32 < cb + n * n * f.bytes ∨ 2 ^ 32 < sb + n * sz then .next (failed 0x02 l s)
      else if f = .gf16 ∧ (cb % 2 = 1 ∨ sb % 2 = 1) then .next (failed 0x03 l s)
      else if f = .gf16 ∧ sz % 2 = 1 then .next (failed 0x04 l s)
      else if cb < sb + n * sz ∧ sb < cb + n * n * f.bytes then .next (failed 0x05 l s)
      else .next (finished { s with
        dec :=
          { init := true, dep := false, dfield := f, dn := l.ops.a0, ds := l.ops.a1, dcoef := l.ops.a2,
            dsym := l.ops.a3, rank := 0, cntMiss := l.ops.a0, cntPart := 0, cntDec := 0,
            piv := List.replicate s.config.nmax false, stat := List.replicate s.config.nmax .missing } })

/-- 43_pivot_engine.md R198: INIT first, then F against DFIELD, before everything else. -/
def Obligations.SessionCommandsCheckInitThenField : Prop :=
  ∀ (f : Field) (i : Instr) (s : State) (l : Latched), s.eng = .busy l →
    i ∈ [.decConsume f, .decConsumeSys f, .decUpdateStatus f, .decQuery f] →
    (s.dec.init = false → exec i s = .next (failed 0x06 l s)) ∧
    (s.dec.init = true → f ≠ s.dec.dfield → exec i s = .next (failed 0x07 l s))

/-- The checks of the two consumes after R198, in their order (43_pivot_engine.md section 3). -/
def Obligations.ConsumeCommandsCheckInOrder : Prop :=
  ∀ (s : State) (l : Latched), s.eng = .busy l → s.dec.init = true →
    let f := s.dec.dfield
    let a0 := l.ops.a0.toNat
    let sp := l.ops.a1.toNat
    let n := s.dec.dn.toNat
    let badSym := 2 ^ 32 < sp + s.dec.ds.toNat
    let badRange := 2 ^ 32 < a0 + n * f.bytes ∨ badSym
    let badAlign := f = .gf16 ∧ (a0 % 2 = 1 ∨ sp % 2 = 1)
    let badSymAlign := f = .gf16 ∧ sp % 2 = 1
    let cvMeets := regionsMeet (consumeVector s.dec l) (coefRegion s.dec) = true ∨
      regionsMeet (consumeVector s.dec l) (symRegion s.dec) = true
    let spMeets := regionsMeet (consumeSymbol s.dec l) (coefRegion s.dec) = true ∨
      regionsMeet (consumeSymbol s.dec l) (symRegion s.dec) = true
    (badRange → exec (.decConsume f) s = .next (failed 0x02 l s)) ∧
    (¬badRange → badAlign → exec (.decConsume f) s = .next (failed 0x03 l s)) ∧
    (¬badRange → ¬badAlign → cvMeets ∨ spMeets → exec (.decConsume f) s = .next (failed 0x05 l s)) ∧
    (n ≤ a0 ∨ badSym → exec (.decConsumeSys f) s = .next (failed 0x02 l s)) ∧
    (¬(n ≤ a0 ∨ badSym) → badSymAlign → exec (.decConsumeSys f) s = .next (failed 0x03 l s)) ∧
    (¬(n ≤ a0 ∨ badSym) → ¬badSymAlign → spMeets → exec (.decConsumeSys f) s = .next (failed 0x05 l s))

/-- 43_pivot_engine.md R202: DEC_QUERY, for every operand: the checks of R198, the index against DN, then the code of one
symbol status, 0 Missing, 1 PartiallyDecoded, 2 Decoded. -/
def Obligations.DecQueryReadsTheStatusCode : Prop :=
  ∀ (f : Field) (s : State) (l : Latched), s.eng = .busy l →
    exec (.decQuery f) s =
      if s.dec.init = false then .next (failed 0x06 l s)
      else if f ≠ s.dec.dfield then .next (failed 0x07 l s)
      else if s.dec.dn.toNat ≤ l.ops.a0.toNat then .next (failed 0x02 l s)
      else .next (finished { s with
        res :=
          match s.dec.stat.getD l.ops.a0.toNat .missing with
          | .missing => 0
          | .partiallyDecoded => 1
          | .decoded => 2 })

/-- DEC_UPDATE_STATUS whose coefficient region answers: exactly the PartiallyDecoded rows with one nonzero coefficient
become Decoded, the counts are recomputed, and nothing else changes (43_pivot_engine.md sections 2 and 3). -/
def Obligations.DecUpdateStatusReclassifiesUnitRows : Prop :=
  ∀ (s : State) (l : Latched), s.eng = .busy l → s.dec.init = true → allMapped s.config [coefRegion s.dec] →
    ∃ d : Decoder,
      exec (.decUpdateStatus s.dec.dfield) s = .next (finished { s with dec := d }) ∧
      d = { s.dec with
        stat := d.stat
        cntMiss := BitVec.ofNat 32 (countStat d .missing)
        cntPart := BitVec.ofNat 32 (countStat d .partiallyDecoded)
        cntDec := BitVec.ofNat 32 (countStat d .decoded) } ∧
      d.stat.length = s.dec.stat.length ∧
      ∀ r, statAt d r =
        if r < s.dec.dn.toNat ∧ statAt s.dec r = .partiallyDecoded ∧ rowNonzeros s.dec s.memory r = 1 then .decoded
        else statAt s.dec r

/-- The two data-dependent errors of a consume: a stored pivot 0 at the first row the reduction would divide by it is
ERR_DIV0, an occupied first nonzero column is ERR_MATRIX, and nothing but the error state changes (43_pivot_engine.md
sections 2 and 3). -/
def Obligations.CorruptMatrixStopsAConsume : Prop :=
  ∀ (s : State) (l : Latched),
    s.eng = .busy l → checksPass (.decConsume s.dec.dfield) l s = true →
    disturbed (.decConsume s.dec.dfield) l s = false → allMapped s.config [consumeVector s.dec l] →
    let v := vectorAt s.dec s.memory l.ops.a0.toNat
    (∀ p < s.dec.dn.toNat, allMapped s.config [coefRegion s.dec] →
      zeroPivotAt s.config s.dec s.memory (fun j => v.getD j 0) p →
      (∀ q < p, ¬zeroPivotAt s.config s.dec s.memory (fun j => v.getD j 0) q) →
      exec (.decConsume s.dec.dfield) s = .next (failed 0x09 l s)) ∧
    (∀ (w fs : List Nat) (col : Nat),
      forward s.config s.dec s.memory v = .ok (w, fs) → firstNonzeroAt w col → pivAt s.dec col = true →
      exec (.decConsume s.dec.dfield) s = .next (failed 0x0A l s))

/-- What FORWARD gives, here and in IndependentVectorIsInserted (43_pivot_engine.md section 2): `reduction` and its
factors where it meets no stored pivot 0; under INV, in closed form, each stored row's factor is the vector's own entry
at that pivot (the spec's own inference), and the result is 0 at every stored pivot. And a vector that reduces to zero is
discarded: RES = 0xFFFF_FFFF, DEP = 1, the counts (after a scan, if SU was latched), and nothing else (section 3,
step 2). -/
def Obligations.DependentVectorIsDiscarded : Prop :=
  (∀ (c : Config) (d : Decoder) (m : Memory) (v : List Nat),
    v.length = d.dn.toNat → allMapped c [coefRegion d] →
    let x := reduction c d m (fun j => v.getD j 0)
    ((∀ p < d.dn.toNat, ¬zeroPivotAt c d m (fun j => v.getD j 0) p) →
      forward c d m v =
        .ok ((List.range d.dn.toNat).map (x d.dn.toNat),
          (List.range d.dn.toNat).map fun p => pivotFactor c d m p (x p p))) ∧
    (c.wellFormed = true → MatrixInv d m → (∀ y ∈ v, y < 2 ^ d.dfield.width) →
      (∀ p < d.dn.toNat, ¬zeroPivotAt c d m (fun j => v.getD j 0) p) ∧
      (∀ p < d.dn.toNat, pivotFactor c d m p (x p p) = if pivAt d p = true then v.getD p 0 else 0) ∧
      (∀ j < d.dn.toNat, x d.dn.toNat j =
        gfAdd (v.getD j 0) (gfSum (fun p =>
          if pivAt d p = true then gfMul c d.dfield (v.getD p 0) (coefAt d m p j) else 0) d.dn.toNat)) ∧
      ∀ p < d.dn.toNat, pivAt d p = true → x d.dn.toNat p = 0)) ∧
  ∀ (s : State) (l : Latched) (w fs : List Nat),
    s.eng = .busy l → checksPass (.decConsume s.dec.dfield) l s = true →
    disturbed (.decConsume s.dec.dfield) l s = false →
    allMapped s.config [consumeVector s.dec l, coefRegion s.dec] →
    forward s.config s.dec s.memory (vectorAt s.dec s.memory l.ops.a0.toNat) = .ok (w, fs) → (∀ x ∈ w, x = 0) →
    exec (.decConsume s.dec.dfield) s =
      .next (finished { s with
        dec := { updateCounts (scannedIf l.su s.memory s.dec) with dep := true }
        res := 0xFFFFFFFF })

/-- A vector that reduces to one with a first nonzero at an empty column is inserted there: the normalised row and symbol,
every stored row back-substituted, every other byte unchanged; PIV, RANK, STAT, the counts, DEP = 0 and RES
(43_pivot_engine.md sections 2 and 3, steps 3 and 4). What FORWARD gives is the first clause of
DependentVectorIsDiscarded. -/
def Obligations.IndependentVectorIsInserted : Prop :=
  ∀ (s : State) (l : Latched) (w fs : List Nat) (col : Nat),
    s.config.wellFormed = true → Memory.wf s.memory → DecoderWf s.config s.dec →
    s.eng = .busy l → checksPass (.decConsume s.dec.dfield) l s = true →
    disturbed (.decConsume s.dec.dfield) l s = false →
    allMapped s.config [consumeVector s.dec l, consumeSymbol s.dec l, coefRegion s.dec, symRegion s.dec] →
    forward s.config s.dec s.memory (vectorAt s.dec s.memory l.ops.a0.toNat) = .ok (w, fs) →
    firstNonzeroAt w col → pivAt s.dec col = false →
    let f := s.dec.dfield
    let n := s.dec.dn.toNat
    let ic := gfInv s.config f (w.getD col 0)
    ∃ m : Memory,
      exec (.decConsume f) s =
        .next (finished { s with
          dec :=
            { updateCounts (scannedIf l.su m (setStat (addPivot s.dec col) col
                (if w.countP (fun x => decide (x ≠ 0)) = 1 then .decoded else .partiallyDecoded))) with dep := false }
          res := BitVec.ofNat 32 col
          memory := m }) ∧
      (∀ j < n, coefAt s.dec m col j = gfMul s.config f ic (w.getD j 0)) ∧
      (∀ k < symElems s.dec, symAt s.dec m col k =
        gfMul s.config f ic (gfAdd (elemAt f s.memory (l.ops.a1.toNat + k * f.bytes))
          (gfSum (fun p => gfMul s.config f (fs.getD p 0) (symAt s.dec s.memory p k)) n))) ∧
      (∀ r < n, pivAt s.dec r = true →
        (∀ j < n, coefAt s.dec m r j =
          gfAdd (coefAt s.dec s.memory r j)
            (gfMul s.config f (coefAt s.dec s.memory r col) (coefAt s.dec m col j))) ∧
        ∀ k < symElems s.dec, symAt s.dec m r k =
          gfAdd (symAt s.dec s.memory r k)
            (gfMul s.config f (coefAt s.dec s.memory r col) (symAt s.dec m col k))) ∧
      (∀ r < n, r ≠ col → pivAt s.dec r = false →
        (∀ j < n, coefAt s.dec m r j = coefAt s.dec s.memory r j) ∧
        ∀ k < symElems s.dec, symAt s.dec m r k = symAt s.dec s.memory r k) ∧
      ∀ a, regionsHave [coefRegion s.dec, symRegion s.dec] a = false → Memory.read m a = Memory.read s.memory a

/-- A systematic symbol at an empty index is inserted as the unit row with the raw symbol, and back-substituted into every
stored row (43_pivot_engine.md section 3, 90_conflicts.md C2). -/
def Obligations.SystematicSymbolIsInserted : Prop :=
  ∀ (s : State) (l : Latched),
    s.config.wellFormed = true → Memory.wf s.memory → DecoderWf s.config s.dec →
    s.eng = .busy l → checksPass (.decConsumeSys s.dec.dfield) l s = true →
    disturbed (.decConsumeSys s.dec.dfield) l s = false →
    allMapped s.config [consumeSymbol s.dec l, coefRegion s.dec, symRegion s.dec] →
    pivAt s.dec l.ops.a0.toNat = false →
    let f := s.dec.dfield
    let n := s.dec.dn.toNat
    let i := l.ops.a0.toNat
    ∃ m : Memory,
      exec (.decConsumeSys f) s =
        .next (finished { s with
          dec := { updateCounts (scannedIf l.su m (setStat (addPivot s.dec i) i .decoded)) with dep := false }
          res := l.ops.a0
          memory := m }) ∧
      (∀ j < n, coefAt s.dec m i j = if j = i then 1 else 0) ∧
      (∀ k < symElems s.dec, symAt s.dec m i k = elemAt f s.memory (l.ops.a1.toNat + k * f.bytes)) ∧
      (∀ r < n, pivAt s.dec r = true →
        (∀ j < n, coefAt s.dec m r j = if j = i then 0 else coefAt s.dec s.memory r j) ∧
        ∀ k < symElems s.dec, symAt s.dec m r k =
          gfAdd (symAt s.dec s.memory r k)
            (gfMul s.config f (coefAt s.dec s.memory r i) (symAt s.dec m i k))) ∧
      (∀ r < n, r ≠ i → pivAt s.dec r = false →
        (∀ j < n, coefAt s.dec m r j = coefAt s.dec s.memory r j) ∧
        ∀ k < symElems s.dec, symAt s.dec m r k = symAt s.dec s.memory r k) ∧
      ∀ a, regionsHave [coefRegion s.dec, symRegion s.dec] a = false → Memory.read m a = Memory.read s.memory a

/-- A duplicate systematic symbol under the no-op policy: DEP = 1, RES = 0xFFFF_FFFF, the counts (after a scan, if SU was
latched), and nothing else (43_pivot_engine.md section 3, 90_conflicts.md C3). -/
def Obligations.DuplicateSystematicSymbolIsANoOp : Prop :=
  ∀ (s : State) (l : Latched),
    s.eng = .busy l → checksPass (.decConsumeSys s.dec.dfield) l s = true →
    disturbed (.decConsumeSys s.dec.dfield) l s = false → (l.su = true → allMapped s.config [coefRegion s.dec]) →
    pivAt s.dec l.ops.a0.toNat = true → l.sysdup = false →
    exec (.decConsumeSys s.dec.dfield) s =
      .next (finished { s with
        dec := { updateCounts (scannedIf l.su s.memory s.dec) with dep := true }
        res := 0xFFFFFFFF })

/-- A duplicate systematic symbol under the eliminate policy ends exactly as DEC_CONSUME of a stored copy of the unit
vector would (43_pivot_engine.md section 3, 90_conflicts.md C3). -/
def Obligations.DuplicateSystematicSymbolIsConsumedAsItsUnitVector : Prop :=
  ∀ (s : State) (l : Latched) (cv : Word),
    let f := s.dec.dfield
    let l' : Latched := { l with ops := { l.ops with a0 := cv } }
    let s' : State := { s with eng := .busy l' }
    s.eng = .busy l → checksPass (.decConsumeSys f) l s = true → checksPass (.decConsume f) l' s' = true →
    disturbed (.decConsumeSys f) l s = false → disturbed (.decConsume f) l' s' = false →
    allMapped s.config [consumeVector s.dec l'] →
    pivAt s.dec l.ops.a0.toNat = true → l.sysdup = true →
    (∀ j < s.dec.dn.toNat,
      elemAt f s.memory (cv.toNat + j * f.bytes) = if j = l.ops.a0.toNat then 1 else 0) →
    exec (.decConsumeSys f) s = exec (.decConsume f) s'

/-- INV (43_pivot_engine.md R190) holds after a successful DEC_INIT, and every successful decoder command keeps it, and
under it keeps every Decoded row a unit row: the spec's own inferences in section 4, for every irreducible
polynomial. -/
def Obligations.SuccessfulDecoderCommandsKeepTheMatrixInvariant : Prop :=
  ∀ (f : Field) (i : Instr) (s t : State) (l : Latched),
    s.config.wellFormed = true → Memory.wf s.memory → DecoderWf s.config s.dec →
    s.eng = .busy l → disturbed i l s = false → s.status.err = false →
    exec i s = .next t → t.status.err = false →
    (i = .decInit f → MatrixInv t.dec t.memory) ∧
    (i ∈ [.decConsume f, .decConsumeSys f, .decUpdateStatus f, .decQuery f] →
      MatrixInv s.dec s.memory →
      MatrixInv t.dec t.memory ∧ (DecodedUnit s.dec s.memory → DecodedUnit t.dec t.memory))

/-- Soundness of decoding: if every stored row is a true combination of the originals `x`, and the consumed pair is one
(for a systematic symbol, it is original i), a successful consume leaves every stored row a true combination
(43_pivot_engine.md section 4, the spec's own inference). -/
def Obligations.ConsumingTruePairsKeepsTheRowsTrue : Prop :=
  ∀ (i : Instr) (s t : State) (l : Latched) (x : Nat → Nat → Nat),
    let f := s.dec.dfield
    s.config.wellFormed = true → Memory.wf s.memory → DecoderWf s.config s.dec → (∀ j k, x j k < 2 ^ f.width) →
    s.eng = .busy l → disturbed i l s = false → s.status.err = false →
    Consistent s.config s.dec s.memory x →
    ((i = .decConsume f ∧ ∀ k < symElems s.dec,
        elemAt f s.memory (l.ops.a1.toNat + k * f.bytes) =
          gfSum (fun j => gfMul s.config f (elemAt f s.memory (l.ops.a0.toNat + j * f.bytes)) (x j k)) s.dec.dn.toNat) ∨
      (i = .decConsumeSys f ∧ ∀ k < symElems s.dec,
        elemAt f s.memory (l.ops.a1.toNat + k * f.bytes) = x l.ops.a0.toNat k)) →
    exec i s = .next t → t.status.err = false →
    Consistent t.config t.dec t.memory x

/-- At full rank under INV every coefficient row is the unit row, and the symbol matrix is the original block
(43_pivot_engine.md section 4, the spec's own inference). -/
def Obligations.FullRankHoldsTheOriginals : Prop :=
  ∀ (c : Config) (d : Decoder) (m : Memory) (x : Nat → Nat → Nat),
    c.wellFormed = true → DecoderCounts c d → MatrixInv d m → Consistent c d m x →
    (∀ j k, x j k < 2 ^ d.dfield.width) → d.rank = d.dn →
    ∀ r < d.dn.toNat,
      (∀ j < d.dn.toNat, coefAt d m r j = if j = r then 1 else 0) ∧ ∀ k < symElems d, symAt d m r k = x r k

/-- Within a session RANK never decreases, grows by at most 1 per command and never exceeds N, and no STAT regresses
(43_pivot_engine.md section 4 and 10_state.md section 8; the spec's own inference). -/
def Obligations.RankAndStatusOnlyGrow : Prop :=
  ∀ (i : Instr) (s t : State),
    (∀ f, i ≠ .decInit f) → DecoderWf s.config s.dec → exec i s = .next t →
    t.dec.dn = s.dec.dn ∧
    (t.dec.rank.toNat = s.dec.rank.toNat ∨ t.dec.rank.toNat = s.dec.rank.toNat + 1) ∧
    t.dec.rank.toNat ≤ t.dec.dn.toNat ∧
    ∀ r, statCode (statAt s.dec r) ≤ statCode (statAt t.dec r)

/-! ### Errors and the bytes of a command -/

/-- A command that ends with a code other than ERR_BUS has changed nothing but the error state (60_exceptions.md
section 3): ERR, ERRCODE, ERRCMD, BUSY, DONE. -/
def Obligations.ErrorsArePrecise : Prop :=
  ∀ (i : Instr) (s t : State) (l : Latched),
    s.eng = .busy l → disturbed i l s = false → s.status.err = false →
    exec i s = .next t → t.status.err = true → t.status.errCode ≠ 0x0B →
    t = failed t.status.errCode l s

/-- 60_exceptions.md R246: after ERR_BUS no register but the error state changes, except that a consume ends the session;
the bytes the command could have written hold free values, every other byte is unchanged. And when ERR_BUS is raised
(20_memory.md section 3): by a command whose checks hold and one of whose certain accesses falls outside MEM_OK, whatever
the scalar (41_row_combiner.md section 1); and only by one with a buffer byte outside MEM_OK. -/
def Obligations.BusErrorLeavesItsBytesFree : Prop :=
  (∀ (i : Instr) (s t : State) (l : Latched) (a : Nat),
    s.eng = .busy l → checksPass i l s = true → exec i s = .next t →
    regionsHave (certainAccesses i l s.dec) a = true → memOk s.config a = false →
    t.status.err = true ∧ t.status.errCode = 0x0B) ∧
  (∀ (i : Instr) (s t : State) (l : Latched),
    s.eng = .busy l → s.status.err = false → exec i s = .next t → t.status.err = true → t.status.errCode = 0x0B →
    checksPass i l s = true ∧
    ∃ a, regionsHave (readBuffers i l s.dec ++ writeBuffers i l s.dec) a = true ∧ memOk s.config a = false) ∧
  ∀ (i : Instr) (s t : State) (l : Latched),
    Memory.wf s.memory → s.eng = .busy l → s.status.err = false →
    exec i s = .next t → t.status.err = true → t.status.errCode = 0x0B →
    t = failed 0x0B l { s with
      memory := t.memory
      fresh := t.fresh
      dec :=
        match i with
        | .decConsume _ => { s.dec with init := false }
        | .decConsumeSys _ => { s.dec with init := false }
        | _ => s.dec } ∧
    (∀ a, regionsHave (writeBuffers i l s.dec) a = false → Memory.read t.memory a = Memory.read s.memory a) ∧
    ∀ a < 2 ^ 32, regionsHave (writeBuffers i l s.dec) a = true → Memory.read t.memory a = Config.anyByte s.fresh a

/-- The engine writes memory only in the buffers the command writes, however the command ends (20_memory.md
section 1). -/
def Obligations.EngineWritesOnlyItsBuffers : Prop :=
  ∀ (i : Instr) (s t : State) (l : Latched),
    Memory.wf s.memory → s.eng = .busy l → exec i s = .next t →
    ∀ a, regionsHave (writeBuffers i l s.dec) a = false → Memory.read t.memory a = Memory.read s.memory a

/-- The engine reads memory only in the buffers of the command: two memories that agree there give the same registers and
the same bytes there (20_memory.md section 1). -/
def Obligations.EngineReadsOnlyItsBuffers : Prop :=
  ∀ (i : Instr) (s t : State) (l : Latched) (m : Memory),
    Memory.wf s.memory → Memory.wf m → s.eng = .busy l →
    (∀ a, regionsHave (readBuffers i l s.dec ++ writeBuffers i l s.dec) a = true →
      Memory.read m a = Memory.read s.memory a) →
    exec i s = .next t →
    ∃ m' : Memory,
      exec i { s with memory := m } = .next { t with memory := m' } ∧
      ∀ a, regionsHave (readBuffers i l s.dec ++ writeBuffers i l s.dec) a = true →
        Memory.read m' a = Memory.read t.memory a

/-! ### Invariants of every step -/

/-- Every step keeps memory in its canonical form, the model's own representation (log entry 3: the model's choice), and
the configuration, which the model carries in State (log entry 1: the model's choice), as it is. -/
def Obligations.EveryStepKeepsMemoryCanonical : Prop :=
  ∀ s t : State, Memory.wf s.memory → step s = .next t → Memory.wf t.memory ∧ t.config = s.config

/-- Every step keeps the decoder's bookkeeping (10_state.md sections 6 and 8, 43_pivot_engine.md section 1): PIV and STAT
agree, RANK and the counts are what they count and sum to DN, and the regions are as DEC_INIT checked them. The arrays
as lists of NMAX entries are log entry 19, the model's choice. Without a session the counts are 0, but for the one event
that ends a session and keeps them, the bus error of a consume: following 60_exceptions.md there against 10_state.md
section 6 is log entry 11, the model's choice. -/
def Obligations.EveryStepKeepsTheDecoderBookkeeping : Prop :=
  ∀ s t : State, DecoderWf s.config s.dec → step s = .next t →
    DecoderWf t.config t.dec ∧
    t.dec.cntMiss.toNat + t.dec.cntPart.toNat + t.dec.cntDec.toNat = t.dec.dn.toNat ∧
    (CountsZeroWithoutSession s.dec →
      CountsZeroWithoutSession t.dec ∨
      (s.dec.init = true ∧ t.dec.init = false ∧ t.status.err = true ∧ t.status.errCode = 0x0B))

/-- Every step keeps GSTATE nonzero, GDENS valid, and (GFULL, GT) the threshold of GDENS (10_state.md section 7). -/
def Obligations.EveryStepKeepsTheGeneratorValid : Prop :=
  ∀ s t : State, GeneratorWf s.gen → step s = .next t → GeneratorWf t.gen

/-- Every step keeps the error state and the engine in agreement (10_state.md section 5, 44_engine_control.md sections 2
and 3, 60_exceptions.md section 3). The clause about the asserted reset input, the block holding its reset values, is log
entry 12, and the one about `raced` log entry 8: the model's choices. -/
def Obligations.EveryStepKeepsControlCoherent : Prop :=
  ∀ s t : State, ControlWf s → step s = .next t → ControlWf t

/-- The reset state meets the invariants, CountsZeroWithoutSession among them, in the reference configuration (log
entry 1: the model's choice). -/
def Obligations.ResetMeetsTheInvariants : Prop :=
  State.reset.config.wellFormed = true ∧ Memory.wf State.reset.memory ∧
  DecoderWf State.reset.config State.reset.dec ∧ CountsZeroWithoutSession State.reset.dec ∧
  GeneratorWf State.reset.gen ∧ ControlWf State.reset

/-! ### Reset -/

/-- A change of the reset input gives every register and array the reset value of 10_state.md section 11; every byte a
command in flight could have written holds a free value and no other byte changes; and the model's State.reset holds the
reset values, and lists no byte of memory: the spec gives no contents of memory at power-on, and that an unlisted byte
reads 0 is the model's choice (log entry 3). That both edges reset the block, and that a command in flight is then aborted as by the soft reset, is the
model's choice (log entry 12), and which bytes it could have written log entry 9. -/
def Obligations.HardwareResetGivesTheResetValues : Prop :=
  (∀ (s : State) (rest : List Input) (b : Bool), s.inputs = .resetPin b :: rest →
    ∃ t : State, step s = .next t ∧
      t.ctrl = ⟨false, false, false⟩ ∧ t.status = ⟨false, false, false, 0⟩ ∧ t.ops = ⟨0, 0, 0, 0⟩ ∧
      t.res = 0 ∧ t.lastCmd = 0 ∧ t.errCmd = 0 ∧
      t.dec.init = false ∧ t.dec.dep = false ∧ t.dec.dfield = .gf8 ∧ t.dec.dn = 0 ∧ t.dec.ds = 0 ∧ t.dec.dcoef = 0 ∧
      t.dec.dsym = 0 ∧ t.dec.rank = 0 ∧ t.dec.cntMiss = 0 ∧ t.dec.cntPart = 0 ∧ t.dec.cntDec = 0 ∧
      (∀ r, pivAt t.dec r = false ∧ statAt t.dec r = .missing) ∧
      t.gen = ⟨0x00000000FFFFFFFF, 0x3F800000, true, 0⟩ ∧ t.eng = .idle ∧ irq t = false ∧
      isComplete t = false ∧ isPartiallyComplete t = false ∧ t.inReset = b ∧
      (s.eng = .idle → t.memory = s.memory) ∧
      (Memory.wf s.memory →
        (∀ a, regionsHave (writesInFlight s) a = false → Memory.read t.memory a = Memory.read s.memory a) ∧
        ∀ a < 2 ^ 32, regionsHave (writesInFlight s) a = true → Memory.read t.memory a = Config.anyByte s.fresh a)) ∧
  resetBlock State.reset = State.reset ∧ State.reset.memory = []

/-- A CTRL write with bit 31 = 1 resets the block atomically with the write, the other bits of the value discarded; a
command in flight never completes, every byte it could have written holds a free value, and no other byte changes
(70_reset_and_hazards.md section 1, 10_state.md section 4). That a command one of whose checks fails could have written
no byte is the model's choice (log entry 9). -/
def Obligations.SoftResetAbortsAndResets : Prop :=
  ∀ (s : State) (rest : List Input) (v : Word),
    Memory.wf s.memory →
    s.inputs = .regWrite (s.config.regBase + 0x08) 4 v :: rest → s.config.regBase % 256 = 0 → s.inReset = false →
    v.toNat.testBit 31 = true →
    ∃ (m : Memory) (n : Nat),
      step s = .next (resetBlock { s with inputs := rest, hostData := none, memory := m, fresh := n }) ∧
      (∀ a, regionsHave (writesInFlight s) a = false → Memory.read m a = Memory.read s.memory a) ∧
      ∀ a < 2 ^ 32, regionsHave (writesInFlight s) a = true → Memory.read m a = Config.anyByte s.fresh a

/-- While the reset input is asserted a register read returns 0, a register write has no effect, and the engine makes no
move (70_reset_and_hazards.md section 1). -/
def Obligations.AssertedResetSilencesThePort : Prop :=
  ∀ (s : State) (rest : List Input) (off : Nat) (v : Word),
    s.inReset = true → s.config.regBase % 256 = 0 → off < 256 → off % 4 = 0 →
    (s.inputs = .regRead (s.config.regBase + off) 4 :: rest →
      step s = .next { s with inputs := rest, hostData := some 0 }) ∧
    (s.inputs = .regWrite (s.config.regBase + off) 4 v :: rest →
      step s = .next { s with inputs := rest, hostData := none }) ∧
    (engineNext s → step s = .next { s with inputs := s.inputs.tail })

/-! ### The register port -/

/-- Every register reads as 10_state.md section 2 maps it, committed values while a command is in flight, and a read
changes nothing but what the host got (44_engine_control.md section 4; log entry 6). -/
def Obligations.RegisterReadsReturnTheMap : Prop :=
  ∀ (s : State) (rest : List Input) (off : Nat) (v : Word),
    s.inputs = .regRead (s.config.regBase + off) 4 :: rest → s.config.regBase % 256 = 0 → s.inReset = false →
    (off, v) ∈
      ([(0x00, 0x524C4E43), (0x04, capsWord s.config), (0x08, ctrlWord s), (0x0C, statusWord s), (0x10, s.lastCmd),
        (0x14, s.ops.a0), (0x18, s.ops.a1), (0x1C, s.ops.a2), (0x20, s.ops.a3), (0x24, s.res), (0x28, s.errCmd),
        (0x2C, s.dec.dn), (0x30, s.dec.ds), (0x34, s.dec.dcoef), (0x38, s.dec.dsym), (0x3C, s.dec.rank),
        (0x40, s.dec.cntMiss), (0x44, s.dec.cntPart), (0x48, s.dec.cntDec), (0x4C, s.gen.gdens),
        (0x50, s.gen.gstate.extractLsb' 0 32), (0x54, s.gen.gstate.extractLsb' 32 32)] : List (Nat × Word)) ∨
      (0x58 ≤ off ∧ off ≤ 0xFC ∧ off % 4 = 0 ∧ v = 0) →
    step s = .next { s with inputs := rest, hostData := some v }

/-- The bits of STATUS, CTRL and CAPS (10_state.md sections 4 and 5). -/
def Obligations.StatusCtrlAndCapsBits : Prop :=
  ∀ (s : State) (k : Nat), k < 32 →
    (statusWord s).getLsbD k =
      (if k = 0 then isBusy s
       else if k = 1 then s.status.done
       else if k = 2 then s.status.err
       else if k = 3 then s.status.cmdLost
       else if k = 4 then s.dec.dep
       else if k = 5 then s.dec.init
       else if k = 6 then s.dec.init && decide (s.dec.rank = s.dec.dn)
       else if k = 7 then
         s.dec.init && decide (0 < s.dec.rank.toNat) && decide (s.dec.cntDec.toNat < s.dec.dn.toNat)
       else if k = 8 then decide (s.dec.dfield = .gf16)
       else if 16 ≤ k ∧ k < 24 then s.status.errCode.getLsbD (k - 16)
       else false) ∧
    (ctrlWord s).getLsbD k =
      (if k = 0 then s.ctrl.ie else if k = 1 then s.ctrl.su else if k = 2 then s.ctrl.sysdup else false) ∧
    (capsWord s.config).getLsbD k =
      (if k < 16 then s.config.nmax.testBit k else decide (k = 16 ∨ k = 17))

/-- Register writes (44_engine_control.md section 4): A0-A3 are stored, CTRL with bit 31 = 0 sets IE, SU and SYSDUP, every
read-only register and reserved offset ignores the write; nothing else changes, a command in flight included. -/
def Obligations.RegisterWritesTakeEffectAtOnce : Prop :=
  ∀ (s : State) (rest : List Input) (off : Nat) (v : Word),
    s.inputs = .regWrite (s.config.regBase + off) 4 v :: rest → s.config.regBase % 256 = 0 → s.inReset = false →
    (off = 0x14 → step s = .next { s with inputs := rest, hostData := none, ops := { s.ops with a0 := v } }) ∧
    (off = 0x18 → step s = .next { s with inputs := rest, hostData := none, ops := { s.ops with a1 := v } }) ∧
    (off = 0x1C → step s = .next { s with inputs := rest, hostData := none, ops := { s.ops with a2 := v } }) ∧
    (off = 0x20 → step s = .next { s with inputs := rest, hostData := none, ops := { s.ops with a3 := v } }) ∧
    (off = 0x08 → v.getLsbD 31 = false → step s = .next { s with
      inputs := rest
      hostData := none
      ctrl := { ie := v.getLsbD 0, su := v.getLsbD 1, sysdup := v.getLsbD 2 } }) ∧
    (off = 0x00 ∨ off = 0x04 ∨ (0x24 ≤ off ∧ off ≤ 0xFC ∧ off % 4 = 0) →
      step s = .next { s with inputs := rest, hostData := none })

/-- 10_state.md R31 (`hostData` and `inputs` are the model's own fields: log entries 4 and 6): a write of v to STATUS clears DONE, ERR with ERRCODE, and CMDLOST where bits 1, 2 and 3 of v are 1;
nothing else changes; and a command in flight sets DONE again when it ends. -/
def Obligations.StatusWriteClearsByWritingOne : Prop :=
  (∀ (s : State) (rest : List Input) (v : Word),
    s.inputs = .regWrite (s.config.regBase + 0x0C) 4 v :: rest → s.config.regBase % 256 = 0 → s.inReset = false →
    step s = .next { s with
      inputs := rest
      hostData := none
      status :=
        { done := s.status.done && !v.getLsbD 1
          err := s.status.err && !v.getLsbD 2
          errCode := if v.getLsbD 2 then 0 else s.status.errCode
          cmdLost := s.status.cmdLost && !v.getLsbD 3 } }) ∧
  ∀ (i : Instr) (s : State) (l : Latched), s.eng = .busy l →
    ∃ t, exec i s = .next t ∧ t.status.done = true ∧ t.eng = .idle

/-- A register access in the window that is not an aligned 32-bit one is given no step, and one outside the window is not
this block's (10_state.md section 2; log entry 13). -/
def Obligations.OnlyAlignedWordAccessesAreAdmitted : Prop :=
  ∀ (s : State) (rest : List Input) (addr size : Nat) (v : Word),
    s.inputs = .regRead addr size :: rest ∨ s.inputs = .regWrite addr size v :: rest →
    (inWindow s.config addr = true → size ≠ 4 ∨ addr % 4 ≠ 0 → step s = .refused .portAccess) ∧
    (inWindow s.config addr = false → step s = .refused .outsideWindow) ∧
    (inWindow s.config addr = true → size = 4 → addr % 4 = 0 → ∃ t, step s = .next t)

/-- 60_exceptions.md R249: IRQ = IE and DONE; it follows the completion of every command, successful or failed, and goes
down by W1C of DONE, by clearing IE, by an accepted issue and by reset; CMDLOST does not assert it. -/
def Obligations.IrqFollowsCompletion : Prop :=
  ∀ s : State,
    irq s = (s.ctrl.ie && s.status.done) ∧
    (∀ i l t, s.eng = .busy l → exec i s = .next t → irq t = s.ctrl.ie) ∧
    (∀ v : Word, v.getLsbD 1 = true → irq (writeStatus v s) = false) ∧
    (∀ v : Word, v.getLsbD 0 = false → irq (writeCtrl v s) = false) ∧
    (∀ w : Word, s.eng = .idle → s.status.err = false → irq (issue w s) = false) ∧
    (∀ w : Word, isBusy s = true ∨ s.status.err = true → irq (issue w s) = irq s) ∧
    irq (reset s) = false

/-! ### The host and the command in flight -/

/-- A host access to a byte of the command in flight is a race, and only such an access is; a read of a byte it writes
gets a free value, another read gets the byte; a raced command, and one with a buffer byte in a device region, leaves free
values in every byte it writes, however it ends (20_memory.md sections 4 and 5; log entries 8 and 15: the model's
choices). Which accesses are races rests on two more of the model's choices, against the literal brackets of the spec:
none is one for a command that will fail a check (log entry 9), and while DEC_UPDATE_STATUS, DEC_QUERY or DEC_INIT is in
flight a matrix byte reads as stored and is no race, nor is a write of one for the last two (log entry 22). -/
def Obligations.RacedBytesAreFree : Prop :=
  (∀ (s : State) (rest : List Input) (a : Nat) (b : Byte),
    s.inputs = .memWrite a b :: rest → inputAdmitted s.config (.memWrite a b) = true →
    step s = .next { s with
      inputs := rest
      memory := Memory.write s.memory a b
      hostData := none
      raced := s.raced || regionsHave (touchesInFlight s) a }) ∧
  (∀ (s : State) (rest : List Input) (a : Nat),
    s.inputs = .memRead a :: rest → inputAdmitted s.config (.memRead a) = true →
    (regionsHave (writesInFlight s) a = false →
      step s = .next { s with inputs := rest, hostData := some ((Memory.read s.memory a).setWidth 32) }) ∧
    (regionsHave (writesInFlight s) a = true →
      ∃ t, step s = .next t ∧ t.raced = true ∧ t.memory = s.memory ∧
        t.hostData = some ((Config.anyByte s.fresh a).setWidth 32))) ∧
  ∀ (i : Instr) (s t : State) (l : Latched),
    Memory.wf s.memory → s.eng = .busy l → checksPass i l s = true →
    (s.raced = true ∨
      ∃ b, regionsHave (readBuffers i l s.dec ++ writeBuffers i l s.dec) b = true ∧
        regionsHave s.config.devices b = true) →
    exec i s = .next t →
    ∀ a < 2 ^ 32, regionsHave (writeBuffers i l s.dec) a = true → Memory.read t.memory a = Config.anyByte s.fresh a

/-- Every accepted command completes (44_engine_control.md section 3): if the reset input is deasserted and every pending
input gets a step and resets nothing, the engine executes the very command in flight after at most as many steps as
there are pending inputs, and that step ends it: the engine is idle and DONE is set. And every run ends (section 5),
resets or not. The bound in steps is the model's choice: a whole command is one step, the inputs are a list, memory always
answers (log entries 4, 7 and 17). -/
def Obligations.EveryAcceptedCommandCompletes : Prop :=
  (∀ (s : State) (l : Latched),
    s.eng = .busy l → s.inReset = false →
    (∀ i ∈ s.inputs, inputAdmitted s.config i = true ∧ resetsBlock s.config i = false) →
    ∃ n ≤ s.inputs.length, ∃ u t : State,
      stepsTo n s u ∧ u.eng = .busy l ∧ engineNext u ∧ step u = .next t ∧ t.eng = .idle ∧ t.status.done = true) ∧
  ∀ s : State,
    s.inReset = false → (∀ i ∈ s.inputs, inputAdmitted s.config i = true) →
    ∃ n ≤ s.inputs.length + 1, ∃ t, runEnds n s t
end

