-- ==== Sys2Proof/Laws/State.lean ====
section
/-! SUPPORT. One lemma per field per named update of the state and of the decoder, each true by rfl: later proofs never
unfold a record update. -/

namespace Sys2Proof.Machine

/-! ### acceptCommand -/

@[simp] theorem acceptCommand_config (w : Word) (s : State) :
    (acceptCommand w s).config = s.config := rfl
@[simp] theorem acceptCommand_ctrl (w : Word) (s : State) :
    (acceptCommand w s).ctrl = s.ctrl := rfl
@[simp] theorem acceptCommand_status (w : Word) (s : State) :
    (acceptCommand w s).status = { s.status with done := false } := rfl
@[simp] theorem acceptCommand_ops (w : Word) (s : State) :
    (acceptCommand w s).ops = s.ops := rfl
@[simp] theorem acceptCommand_res (w : Word) (s : State) :
    (acceptCommand w s).res = s.res := rfl
@[simp] theorem acceptCommand_lastCmd (w : Word) (s : State) :
    (acceptCommand w s).lastCmd = w := rfl
@[simp] theorem acceptCommand_errCmd (w : Word) (s : State) :
    (acceptCommand w s).errCmd = s.errCmd := rfl
@[simp] theorem acceptCommand_dec (w : Word) (s : State) :
    (acceptCommand w s).dec = s.dec := rfl
@[simp] theorem acceptCommand_gen (w : Word) (s : State) :
    (acceptCommand w s).gen = s.gen := rfl
@[simp] theorem acceptCommand_eng (w : Word) (s : State) :
    (acceptCommand w s).eng = .busy (latch w s) := rfl
@[simp] theorem acceptCommand_memory (w : Word) (s : State) :
    (acceptCommand w s).memory = s.memory := rfl
@[simp] theorem acceptCommand_inReset (w : Word) (s : State) :
    (acceptCommand w s).inReset = s.inReset := rfl
@[simp] theorem acceptCommand_inputs (w : Word) (s : State) :
    (acceptCommand w s).inputs = s.inputs := rfl
@[simp] theorem acceptCommand_hostData (w : Word) (s : State) :
    (acceptCommand w s).hostData = s.hostData := rfl
@[simp] theorem acceptCommand_raced (w : Word) (s : State) :
    (acceptCommand w s).raced = false := rfl
@[simp] theorem acceptCommand_fresh (w : Word) (s : State) :
    (acceptCommand w s).fresh = s.fresh := rfl

/-! ### refuseCommand -/

@[simp] theorem refuseCommand_config (s : State) :
    (refuseCommand s).config = s.config := rfl
@[simp] theorem refuseCommand_ctrl (s : State) :
    (refuseCommand s).ctrl = s.ctrl := rfl
@[simp] theorem refuseCommand_status (s : State) :
    (refuseCommand s).status = { s.status with cmdLost := true } := rfl
@[simp] theorem refuseCommand_ops (s : State) :
    (refuseCommand s).ops = s.ops := rfl
@[simp] theorem refuseCommand_res (s : State) :
    (refuseCommand s).res = s.res := rfl
@[simp] theorem refuseCommand_lastCmd (s : State) :
    (refuseCommand s).lastCmd = s.lastCmd := rfl
@[simp] theorem refuseCommand_errCmd (s : State) :
    (refuseCommand s).errCmd = s.errCmd := rfl
@[simp] theorem refuseCommand_dec (s : State) :
    (refuseCommand s).dec = s.dec := rfl
@[simp] theorem refuseCommand_gen (s : State) :
    (refuseCommand s).gen = s.gen := rfl
@[simp] theorem refuseCommand_eng (s : State) :
    (refuseCommand s).eng = s.eng := rfl
@[simp] theorem refuseCommand_memory (s : State) :
    (refuseCommand s).memory = s.memory := rfl
@[simp] theorem refuseCommand_inReset (s : State) :
    (refuseCommand s).inReset = s.inReset := rfl
@[simp] theorem refuseCommand_inputs (s : State) :
    (refuseCommand s).inputs = s.inputs := rfl
@[simp] theorem refuseCommand_hostData (s : State) :
    (refuseCommand s).hostData = s.hostData := rfl
@[simp] theorem refuseCommand_raced (s : State) :
    (refuseCommand s).raced = s.raced := rfl
@[simp] theorem refuseCommand_fresh (s : State) :
    (refuseCommand s).fresh = s.fresh := rfl

/-! ### complete -/

@[simp] theorem complete_config (s : State) :
    (complete s).config = s.config := rfl
@[simp] theorem complete_ctrl (s : State) :
    (complete s).ctrl = s.ctrl := rfl
@[simp] theorem complete_status (s : State) :
    (complete s).status = { s.status with done := true } := rfl
@[simp] theorem complete_ops (s : State) :
    (complete s).ops = s.ops := rfl
@[simp] theorem complete_res (s : State) :
    (complete s).res = s.res := rfl
@[simp] theorem complete_lastCmd (s : State) :
    (complete s).lastCmd = s.lastCmd := rfl
@[simp] theorem complete_errCmd (s : State) :
    (complete s).errCmd = s.errCmd := rfl
@[simp] theorem complete_dec (s : State) :
    (complete s).dec = s.dec := rfl
@[simp] theorem complete_gen (s : State) :
    (complete s).gen = s.gen := rfl
@[simp] theorem complete_eng (s : State) :
    (complete s).eng = .idle := rfl
@[simp] theorem complete_memory (s : State) :
    (complete s).memory = s.memory := rfl
@[simp] theorem complete_inReset (s : State) :
    (complete s).inReset = s.inReset := rfl
@[simp] theorem complete_inputs (s : State) :
    (complete s).inputs = s.inputs := rfl
@[simp] theorem complete_hostData (s : State) :
    (complete s).hostData = s.hostData := rfl
@[simp] theorem complete_raced (s : State) :
    (complete s).raced = false := rfl
@[simp] theorem complete_fresh (s : State) :
    (complete s).fresh = s.fresh := rfl

/-! ### raiseError -/

@[simp] theorem raiseError_config (e : ErrorCode) (l : Latched) (s : State) :
    (raiseError e l s).config = s.config := rfl
@[simp] theorem raiseError_ctrl (e : ErrorCode) (l : Latched) (s : State) :
    (raiseError e l s).ctrl = s.ctrl := rfl
@[simp] theorem raiseError_status (e : ErrorCode) (l : Latched) (s : State) :
    (raiseError e l s).status = { s.status with done := true, err := true, errCode := e.code } := rfl
@[simp] theorem raiseError_ops (e : ErrorCode) (l : Latched) (s : State) :
    (raiseError e l s).ops = s.ops := rfl
@[simp] theorem raiseError_res (e : ErrorCode) (l : Latched) (s : State) :
    (raiseError e l s).res = s.res := rfl
@[simp] theorem raiseError_lastCmd (e : ErrorCode) (l : Latched) (s : State) :
    (raiseError e l s).lastCmd = s.lastCmd := rfl
@[simp] theorem raiseError_errCmd (e : ErrorCode) (l : Latched) (s : State) :
    (raiseError e l s).errCmd = l.cmd := rfl
@[simp] theorem raiseError_dec (e : ErrorCode) (l : Latched) (s : State) :
    (raiseError e l s).dec = s.dec := rfl
@[simp] theorem raiseError_gen (e : ErrorCode) (l : Latched) (s : State) :
    (raiseError e l s).gen = s.gen := rfl
@[simp] theorem raiseError_eng (e : ErrorCode) (l : Latched) (s : State) :
    (raiseError e l s).eng = .idle := rfl
@[simp] theorem raiseError_memory (e : ErrorCode) (l : Latched) (s : State) :
    (raiseError e l s).memory = s.memory := rfl
@[simp] theorem raiseError_inReset (e : ErrorCode) (l : Latched) (s : State) :
    (raiseError e l s).inReset = s.inReset := rfl
@[simp] theorem raiseError_inputs (e : ErrorCode) (l : Latched) (s : State) :
    (raiseError e l s).inputs = s.inputs := rfl
@[simp] theorem raiseError_hostData (e : ErrorCode) (l : Latched) (s : State) :
    (raiseError e l s).hostData = s.hostData := rfl
@[simp] theorem raiseError_raced (e : ErrorCode) (l : Latched) (s : State) :
    (raiseError e l s).raced = false := rfl
@[simp] theorem raiseError_fresh (e : ErrorCode) (l : Latched) (s : State) :
    (raiseError e l s).fresh = s.fresh := rfl

/-! ### acknowledgeError -/

@[simp] theorem acknowledgeError_config (s : State) :
    (acknowledgeError s).config = s.config := rfl
@[simp] theorem acknowledgeError_ctrl (s : State) :
    (acknowledgeError s).ctrl = s.ctrl := rfl
@[simp] theorem acknowledgeError_status (s : State) :
    (acknowledgeError s).status = { s.status with err := false, errCode := 0 } := rfl
@[simp] theorem acknowledgeError_ops (s : State) :
    (acknowledgeError s).ops = s.ops := rfl
@[simp] theorem acknowledgeError_res (s : State) :
    (acknowledgeError s).res = s.res := rfl
@[simp] theorem acknowledgeError_lastCmd (s : State) :
    (acknowledgeError s).lastCmd = s.lastCmd := rfl
@[simp] theorem acknowledgeError_errCmd (s : State) :
    (acknowledgeError s).errCmd = s.errCmd := rfl
@[simp] theorem acknowledgeError_dec (s : State) :
    (acknowledgeError s).dec = s.dec := rfl
@[simp] theorem acknowledgeError_gen (s : State) :
    (acknowledgeError s).gen = s.gen := rfl
@[simp] theorem acknowledgeError_eng (s : State) :
    (acknowledgeError s).eng = s.eng := rfl
@[simp] theorem acknowledgeError_memory (s : State) :
    (acknowledgeError s).memory = s.memory := rfl
@[simp] theorem acknowledgeError_inReset (s : State) :
    (acknowledgeError s).inReset = s.inReset := rfl
@[simp] theorem acknowledgeError_inputs (s : State) :
    (acknowledgeError s).inputs = s.inputs := rfl
@[simp] theorem acknowledgeError_hostData (s : State) :
    (acknowledgeError s).hostData = s.hostData := rfl
@[simp] theorem acknowledgeError_raced (s : State) :
    (acknowledgeError s).raced = s.raced := rfl
@[simp] theorem acknowledgeError_fresh (s : State) :
    (acknowledgeError s).fresh = s.fresh := rfl

/-! ### resetBlock -/

@[simp] theorem resetBlock_config (s : State) :
    (resetBlock s).config = s.config := rfl
@[simp] theorem resetBlock_ctrl (s : State) :
    (resetBlock s).ctrl = Ctrl.reset := rfl
@[simp] theorem resetBlock_status (s : State) :
    (resetBlock s).status = Status.reset := rfl
@[simp] theorem resetBlock_ops (s : State) :
    (resetBlock s).ops = Operands.reset := rfl
@[simp] theorem resetBlock_res (s : State) :
    (resetBlock s).res = 0 := rfl
@[simp] theorem resetBlock_lastCmd (s : State) :
    (resetBlock s).lastCmd = 0 := rfl
@[simp] theorem resetBlock_errCmd (s : State) :
    (resetBlock s).errCmd = 0 := rfl
@[simp] theorem resetBlock_dec (s : State) :
    (resetBlock s).dec = Decoder.reset s.config.nmax := rfl
@[simp] theorem resetBlock_gen (s : State) :
    (resetBlock s).gen = Generator.reset := rfl
@[simp] theorem resetBlock_eng (s : State) :
    (resetBlock s).eng = .idle := rfl
@[simp] theorem resetBlock_memory (s : State) :
    (resetBlock s).memory = s.memory := rfl
@[simp] theorem resetBlock_inReset (s : State) :
    (resetBlock s).inReset = s.inReset := rfl
@[simp] theorem resetBlock_inputs (s : State) :
    (resetBlock s).inputs = s.inputs := rfl
@[simp] theorem resetBlock_hostData (s : State) :
    (resetBlock s).hostData = s.hostData := rfl
@[simp] theorem resetBlock_raced (s : State) :
    (resetBlock s).raced = false := rfl
@[simp] theorem resetBlock_fresh (s : State) :
    (resetBlock s).fresh = s.fresh := rfl

/-! ### withRes -/

@[simp] theorem withRes_config (v : Nat) (s : State) :
    (withRes v s).config = s.config := rfl
@[simp] theorem withRes_ctrl (v : Nat) (s : State) :
    (withRes v s).ctrl = s.ctrl := rfl
@[simp] theorem withRes_status (v : Nat) (s : State) :
    (withRes v s).status = s.status := rfl
@[simp] theorem withRes_ops (v : Nat) (s : State) :
    (withRes v s).ops = s.ops := rfl
@[simp] theorem withRes_res (v : Nat) (s : State) :
    (withRes v s).res = BitVec.ofNat 32 v := rfl
@[simp] theorem withRes_lastCmd (v : Nat) (s : State) :
    (withRes v s).lastCmd = s.lastCmd := rfl
@[simp] theorem withRes_errCmd (v : Nat) (s : State) :
    (withRes v s).errCmd = s.errCmd := rfl
@[simp] theorem withRes_dec (v : Nat) (s : State) :
    (withRes v s).dec = s.dec := rfl
@[simp] theorem withRes_gen (v : Nat) (s : State) :
    (withRes v s).gen = s.gen := rfl
@[simp] theorem withRes_eng (v : Nat) (s : State) :
    (withRes v s).eng = s.eng := rfl
@[simp] theorem withRes_memory (v : Nat) (s : State) :
    (withRes v s).memory = s.memory := rfl
@[simp] theorem withRes_inReset (v : Nat) (s : State) :
    (withRes v s).inReset = s.inReset := rfl
@[simp] theorem withRes_inputs (v : Nat) (s : State) :
    (withRes v s).inputs = s.inputs := rfl
@[simp] theorem withRes_hostData (v : Nat) (s : State) :
    (withRes v s).hostData = s.hostData := rfl
@[simp] theorem withRes_raced (v : Nat) (s : State) :
    (withRes v s).raced = s.raced := rfl
@[simp] theorem withRes_fresh (v : Nat) (s : State) :
    (withRes v s).fresh = s.fresh := rfl

/-! ### withFill -/

@[simp] theorem withFill_config (s : State) (x : BitVec 64 × Memory) :
    (withFill s x).config = s.config := rfl
@[simp] theorem withFill_ctrl (s : State) (x : BitVec 64 × Memory) :
    (withFill s x).ctrl = s.ctrl := rfl
@[simp] theorem withFill_status (s : State) (x : BitVec 64 × Memory) :
    (withFill s x).status = s.status := rfl
@[simp] theorem withFill_ops (s : State) (x : BitVec 64 × Memory) :
    (withFill s x).ops = s.ops := rfl
@[simp] theorem withFill_res (s : State) (x : BitVec 64 × Memory) :
    (withFill s x).res = s.res := rfl
@[simp] theorem withFill_lastCmd (s : State) (x : BitVec 64 × Memory) :
    (withFill s x).lastCmd = s.lastCmd := rfl
@[simp] theorem withFill_errCmd (s : State) (x : BitVec 64 × Memory) :
    (withFill s x).errCmd = s.errCmd := rfl
@[simp] theorem withFill_dec (s : State) (x : BitVec 64 × Memory) :
    (withFill s x).dec = s.dec := rfl
@[simp] theorem withFill_gen (s : State) (x : BitVec 64 × Memory) :
    (withFill s x).gen = { s.gen with gstate := x.1 } := rfl
@[simp] theorem withFill_eng (s : State) (x : BitVec 64 × Memory) :
    (withFill s x).eng = s.eng := rfl
@[simp] theorem withFill_memory (s : State) (x : BitVec 64 × Memory) :
    (withFill s x).memory = x.2 := rfl
@[simp] theorem withFill_inReset (s : State) (x : BitVec 64 × Memory) :
    (withFill s x).inReset = s.inReset := rfl
@[simp] theorem withFill_inputs (s : State) (x : BitVec 64 × Memory) :
    (withFill s x).inputs = s.inputs := rfl
@[simp] theorem withFill_hostData (s : State) (x : BitVec 64 × Memory) :
    (withFill s x).hostData = s.hostData := rfl
@[simp] theorem withFill_raced (s : State) (x : BitVec 64 × Memory) :
    (withFill s x).raced = s.raced := rfl
@[simp] theorem withFill_fresh (s : State) (x : BitVec 64 × Memory) :
    (withFill s x).fresh = s.fresh := rfl

/-! ### writeCtrl -/

@[simp] theorem writeCtrl_config (v : Word) (s : State) :
    (writeCtrl v s).config = s.config := rfl
@[simp] theorem writeCtrl_ctrl (v : Word) (s : State) :
    (writeCtrl v s).ctrl = { ie := v.toNat.testBit 0, su := v.toNat.testBit 1, sysdup := v.toNat.testBit 2 } := rfl
@[simp] theorem writeCtrl_status (v : Word) (s : State) :
    (writeCtrl v s).status = s.status := rfl
@[simp] theorem writeCtrl_ops (v : Word) (s : State) :
    (writeCtrl v s).ops = s.ops := rfl
@[simp] theorem writeCtrl_res (v : Word) (s : State) :
    (writeCtrl v s).res = s.res := rfl
@[simp] theorem writeCtrl_lastCmd (v : Word) (s : State) :
    (writeCtrl v s).lastCmd = s.lastCmd := rfl
@[simp] theorem writeCtrl_errCmd (v : Word) (s : State) :
    (writeCtrl v s).errCmd = s.errCmd := rfl
@[simp] theorem writeCtrl_dec (v : Word) (s : State) :
    (writeCtrl v s).dec = s.dec := rfl
@[simp] theorem writeCtrl_gen (v : Word) (s : State) :
    (writeCtrl v s).gen = s.gen := rfl
@[simp] theorem writeCtrl_eng (v : Word) (s : State) :
    (writeCtrl v s).eng = s.eng := rfl
@[simp] theorem writeCtrl_memory (v : Word) (s : State) :
    (writeCtrl v s).memory = s.memory := rfl
@[simp] theorem writeCtrl_inReset (v : Word) (s : State) :
    (writeCtrl v s).inReset = s.inReset := rfl
@[simp] theorem writeCtrl_inputs (v : Word) (s : State) :
    (writeCtrl v s).inputs = s.inputs := rfl
@[simp] theorem writeCtrl_hostData (v : Word) (s : State) :
    (writeCtrl v s).hostData = s.hostData := rfl
@[simp] theorem writeCtrl_raced (v : Word) (s : State) :
    (writeCtrl v s).raced = s.raced := rfl
@[simp] theorem writeCtrl_fresh (v : Word) (s : State) :
    (writeCtrl v s).fresh = s.fresh := rfl

/-! ### addPivot -/

@[simp] theorem addPivot_init (d : Decoder) (col : Nat) :
    (addPivot d col).init = d.init := rfl
@[simp] theorem addPivot_dep (d : Decoder) (col : Nat) :
    (addPivot d col).dep = d.dep := rfl
@[simp] theorem addPivot_dfield (d : Decoder) (col : Nat) :
    (addPivot d col).dfield = d.dfield := rfl
@[simp] theorem addPivot_dn (d : Decoder) (col : Nat) :
    (addPivot d col).dn = d.dn := rfl
@[simp] theorem addPivot_ds (d : Decoder) (col : Nat) :
    (addPivot d col).ds = d.ds := rfl
@[simp] theorem addPivot_dcoef (d : Decoder) (col : Nat) :
    (addPivot d col).dcoef = d.dcoef := rfl
@[simp] theorem addPivot_dsym (d : Decoder) (col : Nat) :
    (addPivot d col).dsym = d.dsym := rfl
@[simp] theorem addPivot_rank (d : Decoder) (col : Nat) :
    (addPivot d col).rank = d.rank + 1 := rfl
@[simp] theorem addPivot_cntMiss (d : Decoder) (col : Nat) :
    (addPivot d col).cntMiss = d.cntMiss := rfl
@[simp] theorem addPivot_cntPart (d : Decoder) (col : Nat) :
    (addPivot d col).cntPart = d.cntPart := rfl
@[simp] theorem addPivot_cntDec (d : Decoder) (col : Nat) :
    (addPivot d col).cntDec = d.cntDec := rfl
@[simp] theorem addPivot_piv (d : Decoder) (col : Nat) :
    (addPivot d col).piv = d.piv.set col true := rfl
@[simp] theorem addPivot_stat (d : Decoder) (col : Nat) :
    (addPivot d col).stat = d.stat := rfl

/-! ### setStat -/

@[simp] theorem setStat_init (d : Decoder) (col : Nat) (x : SymbolStatus) :
    (setStat d col x).init = d.init := rfl
@[simp] theorem setStat_dep (d : Decoder) (col : Nat) (x : SymbolStatus) :
    (setStat d col x).dep = d.dep := rfl
@[simp] theorem setStat_dfield (d : Decoder) (col : Nat) (x : SymbolStatus) :
    (setStat d col x).dfield = d.dfield := rfl
@[simp] theorem setStat_dn (d : Decoder) (col : Nat) (x : SymbolStatus) :
    (setStat d col x).dn = d.dn := rfl
@[simp] theorem setStat_ds (d : Decoder) (col : Nat) (x : SymbolStatus) :
    (setStat d col x).ds = d.ds := rfl
@[simp] theorem setStat_dcoef (d : Decoder) (col : Nat) (x : SymbolStatus) :
    (setStat d col x).dcoef = d.dcoef := rfl
@[simp] theorem setStat_dsym (d : Decoder) (col : Nat) (x : SymbolStatus) :
    (setStat d col x).dsym = d.dsym := rfl
@[simp] theorem setStat_rank (d : Decoder) (col : Nat) (x : SymbolStatus) :
    (setStat d col x).rank = d.rank := rfl
@[simp] theorem setStat_cntMiss (d : Decoder) (col : Nat) (x : SymbolStatus) :
    (setStat d col x).cntMiss = d.cntMiss := rfl
@[simp] theorem setStat_cntPart (d : Decoder) (col : Nat) (x : SymbolStatus) :
    (setStat d col x).cntPart = d.cntPart := rfl
@[simp] theorem setStat_cntDec (d : Decoder) (col : Nat) (x : SymbolStatus) :
    (setStat d col x).cntDec = d.cntDec := rfl
@[simp] theorem setStat_piv (d : Decoder) (col : Nat) (x : SymbolStatus) :
    (setStat d col x).piv = d.piv := rfl
@[simp] theorem setStat_stat (d : Decoder) (col : Nat) (x : SymbolStatus) :
    (setStat d col x).stat = d.stat.set col x := rfl

/-! ### updateCounts -/

@[simp] theorem updateCounts_init (d : Decoder) :
    (updateCounts d).init = d.init := rfl
@[simp] theorem updateCounts_dep (d : Decoder) :
    (updateCounts d).dep = d.dep := rfl
@[simp] theorem updateCounts_dfield (d : Decoder) :
    (updateCounts d).dfield = d.dfield := rfl
@[simp] theorem updateCounts_dn (d : Decoder) :
    (updateCounts d).dn = d.dn := rfl
@[simp] theorem updateCounts_ds (d : Decoder) :
    (updateCounts d).ds = d.ds := rfl
@[simp] theorem updateCounts_dcoef (d : Decoder) :
    (updateCounts d).dcoef = d.dcoef := rfl
@[simp] theorem updateCounts_dsym (d : Decoder) :
    (updateCounts d).dsym = d.dsym := rfl
@[simp] theorem updateCounts_rank (d : Decoder) :
    (updateCounts d).rank = d.rank := rfl
@[simp] theorem updateCounts_cntMiss (d : Decoder) :
    (updateCounts d).cntMiss = BitVec.ofNat 32 (countStat d .missing) := rfl
@[simp] theorem updateCounts_cntPart (d : Decoder) :
    (updateCounts d).cntPart = BitVec.ofNat 32 (countStat d .partiallyDecoded) := rfl
@[simp] theorem updateCounts_cntDec (d : Decoder) :
    (updateCounts d).cntDec = BitVec.ofNat 32 (countStat d .decoded) := rfl
@[simp] theorem updateCounts_piv (d : Decoder) :
    (updateCounts d).piv = d.piv := rfl
@[simp] theorem updateCounts_stat (d : Decoder) :
    (updateCounts d).stat = d.stat := rfl

/-! ### Free values and the end of a session: what they leave alone -/

@[simp] theorem havoc_config (rs : List Region) (s : State) : (havoc rs s).config = s.config := by cases rs <;> rfl
@[simp] theorem havoc_ctrl (rs : List Region) (s : State) : (havoc rs s).ctrl = s.ctrl := by cases rs <;> rfl
@[simp] theorem havoc_status (rs : List Region) (s : State) : (havoc rs s).status = s.status := by cases rs <;> rfl
@[simp] theorem havoc_ops (rs : List Region) (s : State) : (havoc rs s).ops = s.ops := by cases rs <;> rfl
@[simp] theorem havoc_res (rs : List Region) (s : State) : (havoc rs s).res = s.res := by cases rs <;> rfl
@[simp] theorem havoc_lastCmd (rs : List Region) (s : State) : (havoc rs s).lastCmd = s.lastCmd := by cases rs <;> rfl
@[simp] theorem havoc_errCmd (rs : List Region) (s : State) : (havoc rs s).errCmd = s.errCmd := by cases rs <;> rfl
@[simp] theorem havoc_dec (rs : List Region) (s : State) : (havoc rs s).dec = s.dec := by cases rs <;> rfl
@[simp] theorem havoc_gen (rs : List Region) (s : State) : (havoc rs s).gen = s.gen := by cases rs <;> rfl
@[simp] theorem havoc_eng (rs : List Region) (s : State) : (havoc rs s).eng = s.eng := by cases rs <;> rfl
@[simp] theorem havoc_inReset (rs : List Region) (s : State) : (havoc rs s).inReset = s.inReset := by cases rs <;> rfl
@[simp] theorem havoc_inputs (rs : List Region) (s : State) : (havoc rs s).inputs = s.inputs := by cases rs <;> rfl
@[simp] theorem havoc_hostData (rs : List Region) (s : State) : (havoc rs s).hostData = s.hostData := by cases rs <;> rfl
@[simp] theorem havoc_raced (rs : List Region) (s : State) : (havoc rs s).raced = s.raced := by cases rs <;> rfl
@[simp] theorem endSession_config (i : Instr) (s : State) : (endSession i s).config = s.config := by
  cases i <;> rfl
@[simp] theorem endSession_ctrl (i : Instr) (s : State) : (endSession i s).ctrl = s.ctrl := by
  cases i <;> rfl
@[simp] theorem endSession_status (i : Instr) (s : State) : (endSession i s).status = s.status := by
  cases i <;> rfl
@[simp] theorem endSession_ops (i : Instr) (s : State) : (endSession i s).ops = s.ops := by
  cases i <;> rfl
@[simp] theorem endSession_res (i : Instr) (s : State) : (endSession i s).res = s.res := by
  cases i <;> rfl
@[simp] theorem endSession_lastCmd (i : Instr) (s : State) : (endSession i s).lastCmd = s.lastCmd := by
  cases i <;> rfl
@[simp] theorem endSession_errCmd (i : Instr) (s : State) : (endSession i s).errCmd = s.errCmd := by
  cases i <;> rfl
@[simp] theorem endSession_gen (i : Instr) (s : State) : (endSession i s).gen = s.gen := by
  cases i <;> rfl
@[simp] theorem endSession_eng (i : Instr) (s : State) : (endSession i s).eng = s.eng := by
  cases i <;> rfl
@[simp] theorem endSession_memory (i : Instr) (s : State) : (endSession i s).memory = s.memory := by
  cases i <;> rfl
@[simp] theorem endSession_inReset (i : Instr) (s : State) : (endSession i s).inReset = s.inReset := by
  cases i <;> rfl
@[simp] theorem endSession_inputs (i : Instr) (s : State) : (endSession i s).inputs = s.inputs := by
  cases i <;> rfl
@[simp] theorem endSession_hostData (i : Instr) (s : State) : (endSession i s).hostData = s.hostData := by
  cases i <;> rfl
@[simp] theorem endSession_raced (i : Instr) (s : State) : (endSession i s).raced = s.raced := by
  cases i <;> rfl
@[simp] theorem endSession_fresh (i : Instr) (s : State) : (endSession i s).fresh = s.fresh := by
  cases i <;> rfl
@[simp] theorem disturb_config (i : Instr) (l : Latched) (s t : State) :
    (disturb i l s t).config = t.config := by
  unfold disturb; split <;> simp
@[simp] theorem disturb_ctrl (i : Instr) (l : Latched) (s t : State) :
    (disturb i l s t).ctrl = t.ctrl := by
  unfold disturb; split <;> simp
@[simp] theorem disturb_status (i : Instr) (l : Latched) (s t : State) :
    (disturb i l s t).status = t.status := by
  unfold disturb; split <;> simp
@[simp] theorem disturb_ops (i : Instr) (l : Latched) (s t : State) :
    (disturb i l s t).ops = t.ops := by
  unfold disturb; split <;> simp
@[simp] theorem disturb_res (i : Instr) (l : Latched) (s t : State) :
    (disturb i l s t).res = t.res := by
  unfold disturb; split <;> simp
@[simp] theorem disturb_lastCmd (i : Instr) (l : Latched) (s t : State) :
    (disturb i l s t).lastCmd = t.lastCmd := by
  unfold disturb; split <;> simp
@[simp] theorem disturb_errCmd (i : Instr) (l : Latched) (s t : State) :
    (disturb i l s t).errCmd = t.errCmd := by
  unfold disturb; split <;> simp
@[simp] theorem disturb_dec (i : Instr) (l : Latched) (s t : State) :
    (disturb i l s t).dec = t.dec := by
  unfold disturb; split <;> simp
@[simp] theorem disturb_gen (i : Instr) (l : Latched) (s t : State) :
    (disturb i l s t).gen = t.gen := by
  unfold disturb; split <;> simp
@[simp] theorem disturb_eng (i : Instr) (l : Latched) (s t : State) :
    (disturb i l s t).eng = t.eng := by
  unfold disturb; split <;> simp
@[simp] theorem disturb_inReset (i : Instr) (l : Latched) (s t : State) :
    (disturb i l s t).inReset = t.inReset := by
  unfold disturb; split <;> simp
@[simp] theorem disturb_inputs (i : Instr) (l : Latched) (s t : State) :
    (disturb i l s t).inputs = t.inputs := by
  unfold disturb; split <;> simp
@[simp] theorem disturb_hostData (i : Instr) (l : Latched) (s t : State) :
    (disturb i l s t).hostData = t.hostData := by
  unfold disturb; split <;> simp
@[simp] theorem disturb_raced (i : Instr) (l : Latched) (s t : State) :
    (disturb i l s t).raced = t.raced := by
  unfold disturb; split <;> simp

end Sys2Proof.Machine
end

