-- ==== Sys2Proof/Laws/Memory.lean ====
section
/-! SUPPORT. Memory: read after write, and every memory operation keeps the canonical form; elements read back as they
were written; loops; free values. -/

namespace Sys2Proof.Machine

/-! ### Bytes -/

theorem read_put_same (m : Memory) (a : Nat) (b : Byte) (h : m.Pairwise fun x y => x.1 < y.1) :
    Memory.read (Memory.put a b m) a = b := by
  induction m with
  | nil => by_cases hb : b = Memory.unlisted <;> simp [Memory.put, Memory.read, hb]
  | cons x rest ih =>
    obtain ⟨k, v⟩ := x
    have hrest := (List.pairwise_cons.1 h).2
    have hk := (List.pairwise_cons.1 h).1
    have absent : ∀ l : Memory, (∀ y ∈ l, a < y.1) → Memory.read l a = Memory.unlisted := by
      intro l hl
      induction l with
      | nil => rfl
      | cons y ys ihl =>
        have h1 := hl y (by simp)
        have h2 := ihl fun z hz => hl z (by simp [hz])
        simp [Memory.read, Nat.ne_of_gt h1, h2]
    simp only [Memory.put]
    split
    · rename_i hlt
      split
      · rename_i hb
        rw [absent _ (by
          intro y hy
          rcases List.mem_cons.1 hy with rfl | hy
          · exact hlt
          · exact lt_trans hlt (hk y hy)), hb]
      · simp [Memory.read]
    · split
      · rename_i hne heq
        subst heq
        split
        · rename_i hb
          rw [absent rest hk, hb]
        · simp [Memory.read]
      · rename_i hne heq
        simp [Memory.read, Ne.symm heq, ih hrest]

theorem read_put_other (m : Memory) (a c : Nat) (b : Byte) (hc : c ≠ a) (h : m.Pairwise fun x y => x.1 < y.1) :
    Memory.read (Memory.put a b m) c = Memory.read m c := by
  induction m with
  | nil => by_cases hb : b = Memory.unlisted <;> simp [Memory.put, Memory.read, hb, Ne.symm hc]
  | cons x rest ih =>
    obtain ⟨k, v⟩ := x
    have hrest := (List.pairwise_cons.1 h).2
    simp only [Memory.put]
    split
    · split <;> simp [Memory.read, Ne.symm hc]
    · split
      · rename_i hne heq
        subst heq
        split <;> simp [Memory.read, Ne.symm hc]
      · simp [Memory.read, ih hrest]

theorem mem_put {m : Memory} {a : Nat} {b : Byte} {y : Host.Cell} (hy : y ∈ Memory.put a b m) :
    y ∈ m ∨ (y = (a, b) ∧ b ≠ Memory.unlisted) := by
  induction m with
  | nil =>
    simp only [Memory.put] at hy
    split at hy
    · simp at hy
    · exact .inr ⟨by simpa using hy, by assumption⟩
  | cons x rest ih =>
    obtain ⟨k, v⟩ := x
    simp only [Memory.put] at hy
    split at hy
    · split at hy
      · exact .inl hy
      · rcases List.mem_cons.1 hy with rfl | hy
        · exact .inr ⟨rfl, by assumption⟩
        · exact .inl hy
    · split at hy
      · split at hy
        · exact .inl (List.mem_cons_of_mem _ hy)
        · rcases List.mem_cons.1 hy with rfl | hy
          · exact .inr ⟨rfl, by assumption⟩
          · exact .inl (List.mem_cons_of_mem _ hy)
      · rcases List.mem_cons.1 hy with rfl | hy
        · exact .inl (by simp)
        · exact (ih hy).imp (List.mem_cons_of_mem _) id

theorem pairwise_put {m : Memory} {a : Nat} {b : Byte} (h : m.Pairwise fun x y => x.1 < y.1) :
    (Memory.put a b m).Pairwise fun x y => x.1 < y.1 := by
  induction m with
  | nil => by_cases hb : b = Memory.unlisted <;> simp [Memory.put, hb]
  | cons x rest ih =>
    obtain ⟨k, v⟩ := x
    obtain ⟨hk, hrest⟩ := List.pairwise_cons.1 h
    simp only [Memory.put]
    split
    · rename_i hlt
      split
      · exact h
      · refine List.pairwise_cons.2 ⟨fun y hy => ?_, h⟩
        rcases List.mem_cons.1 hy with rfl | hy
        · exact hlt
        · exact lt_trans hlt (hk y hy)
    · split
      · rename_i _ heq
        subst heq
        split
        · exact hrest
        · exact List.pairwise_cons.2 ⟨hk, hrest⟩
      · rename_i hge hne
        refine List.pairwise_cons.2 ⟨fun y hy => ?_, ih hrest⟩
        rcases mem_put hy with hy | ⟨rfl, -⟩
        · exact hk y hy
        · exact lt_of_le_of_ne (not_lt.1 hge) (Ne.symm hne)

/-- A byte store keeps the canonical form. -/
theorem write_keeps_wf {m : Memory} (h : Memory.wf m) (a : Nat) (b : Byte) : Memory.wf (Memory.write m a b) := by
  unfold Memory.write
  split
  · refine ⟨pairwise_put h.1, fun y hy => ?_⟩
    rcases mem_put hy with hy | ⟨rfl, hb⟩
    · exact h.2 y hy
    · exact ⟨by assumption, hb⟩
  · exact h

/-- A byte reads as it was written. -/
theorem read_write_same {m : Memory} (h : Memory.wf m) {a : Nat} (ha : a < 2 ^ 32) (b : Byte) :
    Memory.read (Memory.write m a b) a = b := by
  simp only [Memory.write, if_pos ha]
  exact read_put_same m a b h.1

/-- A byte store leaves every other byte alone. -/
theorem read_write_other {m : Memory} (h : Memory.wf m) {a c : Nat} (hc : c ≠ a) (b : Byte) :
    Memory.read (Memory.write m a b) c = Memory.read m c := by
  unfold Memory.write
  split
  · exact read_put_other m a c b hc h.1
  · rfl

/-! ### Loops -/

/-- What a loop that ends without an error keeps: a property of its start that every iteration keeps. -/
theorem loop_keeps {σ : Type} {body : Nat → σ → Except ErrorCode σ} (P : σ → Prop)
    (hbody : ∀ i x y, body i x = .ok y → P x → P y) :
    ∀ {n : Nat} {x y : σ}, loop body n x = .ok y → P x → P y
  | 0, x, y, h, hx => by
    cases h
    exact hx
  | n + 1, x, y, h, hx => by
    simp only [loop] at h
    cases hn : loop body n x with
    | error e => simp [hn, Except.bind] at h
    | ok z =>
      rw [hn] at h
      exact hbody n z y h (loop_keeps P hbody hn hx)

/-- A loop whose every iteration succeeds on the states it meets succeeds, and ends in the state its invariant says. -/
theorem loop_succeeds {σ : Type} {body : Nat → σ → Except ErrorCode σ} (P : Nat → σ → Prop) {n : Nat}
    (hbody : ∀ i x, i < n → P i x → ∃ y, body i x = .ok y ∧ P (i + 1) y) {x : σ} (hx : P 0 x) :
    ∃ y, loop body n x = .ok y ∧ P n y := by
  induction n with
  | zero => exact ⟨x, rfl, hx⟩
  | succ n ih =>
    obtain ⟨y, hy, hP⟩ := ih fun i x hi => hbody i x (Nat.lt_succ_of_lt hi)
    obtain ⟨z, hz, hP'⟩ := hbody n y (Nat.lt_succ_self n) hP
    exact ⟨z, by simp [loop, hy, Except.bind, hz], hP'⟩

/-- Every error of a loop is an error of one of its iterations. -/
theorem loop_error {σ : Type} {body : Nat → σ → Except ErrorCode σ} (Q : ErrorCode → Prop)
    (hbody : ∀ i x e, body i x = .error e → Q e) :
    ∀ {n : Nat} {x : σ} {e : ErrorCode}, loop body n x = .error e → Q e
  | 0, _, _, h => by cases h
  | n + 1, x, e, h => by
    simp only [loop] at h
    cases hn : loop body n x with
    | error e' =>
      rw [hn] at h
      cases h
      exact loop_error Q hbody hn
    | ok z =>
      rw [hn] at h
      exact hbody n z e h

/-! ### Elements -/

/-- A region read or written lies in backed memory. -/
theorem regionsHave_append (rs qs : List Region) (a : Nat) :
    regionsHave (rs ++ qs) a = (regionsHave rs a || regionsHave qs a) := by simp [regionsHave]

/-- The bytes of an element answer without an error. -/
def elemMapped (c : Config) (f : Field) (a : Nat) : Prop := ∀ k < f.bytes, memOk c (a + k) = true

theorem memOk_lt {c : Config} {a : Nat} (h : memOk c a = true) : a < 2 ^ 32 := by
  simp only [memOk, Bool.and_eq_true, decide_eq_true_eq] at h
  exact h.1

theorem elemAt_lt (f : Field) (m : Memory) (a : Nat) : elemAt f m a < 2 ^ f.width := by
  cases f
  · simpa [elemAt, Field.width] using (Memory.read m a).isLt
  · have h0 := (Memory.read m a).isLt
    have h1 := (Memory.read m (a + 1)).isLt
    simp only [elemAt, Field.width]
    omega

/-- ElemRead on backed bytes gives the element. -/
theorem elemRead_eq {c : Config} {f : Field} {a : Nat} (h : elemMapped c f a) (m : Memory) :
    elemRead c f m a = .ok (elemAt f m a) := by
  cases f with
  | gf8 =>
    have h0 := h 0 (by decide)
    simp [elemRead, Field.bytes, memRead, readByte, elemAt, bind, Except.bind] at h0 ⊢
    simp [h0]
  | gf16 =>
    have h0 := h 0 (by decide)
    have h1 := h 1 (by decide)
    simp [elemRead, Field.bytes, memRead, readByte, elemAt, bind, Except.bind] at h0 h1 ⊢
    simp [h0, h1]

/-- The only error of a read is a bus error. -/
theorem memRead_error {c : Config} {m : Memory} {e : ErrorCode} :
    ∀ {n a : Nat}, memRead c m a n = .error e → e = .bus
  | 0, _, h => by cases h
  | n + 1, a, h => by
    by_cases hok : memOk c a = true
    · cases hr : memRead c m (a + 1) n with
      | ok v => simp [memRead, readByte, hok, hr, bind, Except.bind] at h
      | error e' =>
        simp only [memRead, readByte, hok, hr, bind, Except.bind, if_true, Except.error.injEq] at h
        exact h ▸ memRead_error hr
    · simp [memRead, readByte, hok, bind, Except.bind] at h
      exact h.symm

/-- The only error of ElemRead is a bus error. -/
theorem elemRead_error {c : Config} {f : Field} {m : Memory} {a : Nat} {e : ErrorCode}
    (h : elemRead c f m a = .error e) : e = .bus := memRead_error h

/-- The only error of a write is a bus error. -/
theorem memWrite_error {c : Config} {e : ErrorCode} :
    ∀ {n a v : Nat} {m : Memory}, memWrite c m a n v = .error e → e = .bus
  | 0, _, _, _, h => by cases h
  | n + 1, a, v, m, h => by
    by_cases hok : memOk c a = true
    · simp only [memWrite, writeByte, hok, bind, Except.bind, if_true] at h
      exact memWrite_error h
    · simp [memWrite, writeByte, hok, bind, Except.bind] at h
      exact h.symm

/-- The only error of ElemWrite is a bus error. -/
theorem elemWrite_error {c : Config} {f : Field} {m : Memory} {a v : Nat} {e : ErrorCode}
    (h : elemWrite c f m a v = .error e) : e = .bus := memWrite_error h

/-- Everything ElemWrite can do when it succeeds: its bytes hold the low bits of the value, every other byte and the
canonical form stay. -/
theorem elemWrite_spec {c : Config} {f : Field} {m m' : Memory} {a v : Nat} (hw : Memory.wf m)
    (h : elemWrite c f m a v = .ok m') :
    Memory.wf m' ∧ elemAt f m' a = v % 2 ^ f.width ∧
      ∀ b, b < a ∨ a + f.bytes ≤ b → Memory.read m' b = Memory.read m b := by
  cases f with
  | gf8 =>
    simp only [elemWrite, Field.bytes, memWrite, writeByte, bind, Except.bind] at h
    split at h
    · cases h
    · rename_i m1 h1
      split at h1
      · rename_i hok
        cases h1
        cases h
        refine ⟨write_keeps_wf hw _ _, ?_, fun b hb => read_write_other hw (by simp only [Field.bytes] at hb; omega) _⟩
        simp only [elemAt, Field.width]
        rw [read_write_same hw (memOk_lt hok)]
        simp
      · cases h1
  | gf16 =>
    simp only [elemWrite, Field.bytes, memWrite, writeByte, bind, Except.bind] at h
    split at h
    · cases h
    · rename_i m1 h1
      split at h1
      · rename_i hok
        cases h1
        split at h
        · cases h
        · rename_i m2 h2
          split at h2
          · rename_i hok2
            cases h2
            cases h
            have hw1 := write_keeps_wf hw a (BitVec.ofNat 8 v)
            refine ⟨write_keeps_wf hw1 _ _, ?_, fun b hb => ?_⟩
            · simp only [elemAt, Field.width]
              rw [read_write_same hw1 (memOk_lt hok2), read_write_other hw1 (by omega), read_write_same hw (memOk_lt hok)]
              simp only [BitVec.toNat_ofNat]
              omega
            · simp only [Field.bytes] at hb
              rw [read_write_other hw1 (by omega), read_write_other hw (by omega)]
          · cases h2
      · cases h1

/-- ElemWrite succeeds on backed bytes. -/
theorem elemWrite_succeeds {c : Config} {f : Field} {a : Nat} (h : elemMapped c f a) (m : Memory) (v : Nat) :
    ∃ m', elemWrite c f m a v = .ok m' := by
  cases f with
  | gf8 =>
    have h0 := h 0 (by decide)
    simp [elemWrite, Field.bytes, memWrite, writeByte, bind, Except.bind] at h0 ⊢
    simp [h0]
  | gf16 =>
    have h0 := h 0 (by decide)
    have h1 := h 1 (by decide)
    simp [elemWrite, Field.bytes, memWrite, writeByte, bind, Except.bind] at h0 h1 ⊢
    simp [h0, h1]

/-! ### Free values -/

theorem havocBytes_spec (n base : Nat) {k : Nat} {m : Memory} (hw : Memory.wf m) :
    Memory.wf (havocBytes n base k m) ∧
      (∀ a, a < base ∨ base + k ≤ a → Memory.read (havocBytes n base k m) a = Memory.read m a) ∧
      ∀ a, base ≤ a → a < base + k → a < 2 ^ 32 → Memory.read (havocBytes n base k m) a = Config.anyByte n a := by
  induction k with
  | zero => exact ⟨hw, fun _ _ => rfl, fun a h1 h2 => by omega⟩
  | succ k ih =>
    obtain ⟨ihw, iho, ihi⟩ := ih
    refine ⟨write_keeps_wf ihw _ _, fun a ha => ?_, fun a h1 h2 h3 => ?_⟩
    · rw [havocBytes, read_write_other ihw (by omega), iho a (by omega)]
    · by_cases hk : a = base + k
      · subst hk
        rw [havocBytes, read_write_same ihw h3]
      · rw [havocBytes, read_write_other ihw hk, ihi a h1 (by omega) h3]

/-- Everything the free values do to memory: each byte of the regions takes its free value, every other byte and the
canonical form stay. -/
theorem havocRegions_spec (n : Nat) {rs : List Region} {m : Memory} (hw : Memory.wf m) :
    Memory.wf (havocRegions n rs m) ∧
      (∀ a, regionsHave rs a = false → Memory.read (havocRegions n rs m) a = Memory.read m a) ∧
      ∀ a, regionsHave rs a = true → a < 2 ^ 32 → Memory.read (havocRegions n rs m) a = Config.anyByte n a := by
  induction rs generalizing m with
  | nil => exact ⟨hw, fun _ _ => rfl, fun a h => by simp [regionsHave] at h⟩
  | cons r rest ih =>
    obtain ⟨hw1, hout, hin⟩ := havocBytes_spec n r.base (k := r.len) hw
    obtain ⟨ihw, iho, ihi⟩ := ih hw1
    refine ⟨ihw, fun a ha => ?_, fun a ha hlt => ?_⟩
    · simp only [regionsHave, List.any_cons, Bool.or_eq_false_iff, regionHas, Bool.and_eq_false_iff,
        decide_eq_false_iff_not] at ha
      rw [havocRegions, iho a ha.2, hout a (by omega)]
    · rw [havocRegions]
      by_cases hr : regionsHave rest a = true
      · exact ihi a hr hlt
      · rw [iho a (by simpa using hr)]
        simp only [regionsHave, List.any_cons, Bool.or_eq_true] at ha hr
        rcases ha with ha | ha
        · simp only [regionHas, Bool.and_eq_true, decide_eq_true_eq] at ha
          exact hin a ha.1 ha.2 hlt
        · exact absurd ha hr

/-- The free values of a set of regions, on a state. -/
theorem havoc_spec (rs : List Region) {s : State} (hw : Memory.wf s.memory) :
    Memory.wf (havoc rs s).memory ∧
      (∀ a, regionsHave rs a = false → Memory.read (havoc rs s).memory a = Memory.read s.memory a) ∧
      ∀ a, regionsHave rs a = true → a < 2 ^ 32 → Memory.read (havoc rs s).memory a = Config.anyByte s.fresh a := by
  cases rs with
  | nil => exact ⟨hw, fun _ _ => rfl, fun a h => by simp [regionsHave] at h⟩
  | cons r rest => exact havocRegions_spec s.fresh hw

end Sys2Proof.Machine
end

