-- ==== Sys2Proof/Laws/Command.lean ====
section
/-! SUPPORT. What running a command can do, said once: the cases of its end (44_engine_control.md R233,
60_exceptions.md R244-R246). -/

namespace Sys2Proof.Machine

/-- A command's first failing check, or none. -/
theorem firstError_isNone {cs : List (Bool × ErrorCode)} :
    (firstError cs).isNone = true ↔ ∀ x ∈ cs, x.1 = false := by
  induction cs with
  | nil => simp [firstError]
  | cons x rest ih =>
    obtain ⟨b, e⟩ := x
    cases b <;> simp [firstError, ih]

/-- A command whose checks do not all hold writes no byte. -/
theorem writesOf_of_failed {i : Instr} {l : Latched} {s : State} (h : checksPass i l s = false) :
    writesOf i l s = [] := by simp [writesOf, h]

@[simp] theorem havoc_nil (s : State) : havoc [] s = s := rfl

/-- A command in flight, in the cases of its end: a check fails; its body ends with an error other than a bus error;
with a bus error; or successfully. -/
theorem runCommand_cases {i : Instr} {s t : State} {l : Latched} {body : Latched → Except ErrorCode State}
    (hl : s.eng = .busy l) (h : runCommand i s body = .next t) :
    (∃ e, firstError (checks i l s) = some e ∧ t = raiseError e l s) ∨
    (firstError (checks i l s) = none ∧ ∃ e, e ≠ .bus ∧ body l = .error e ∧ t = raiseError e l (disturb i l s s)) ∨
    (firstError (checks i l s) = none ∧ body l = .error .bus ∧
      t = raiseError .bus l (havoc (writesOf i l s) (endSession i s))) ∨
    (firstError (checks i l s) = none ∧ ∃ u, body l = .ok u ∧ t = complete (disturb i l s u)) := by
  simp only [runCommand, hl, Host.Outcome.next.injEq] at h
  subst h
  cases hc : firstError (checks i l s) with
  | some e =>
    refine .inl ⟨e, rfl, ?_⟩
    have hw : writesOf i l s = [] := writesOf_of_failed (by simp [checksPass, hc])
    have hbus : e ≠ .bus := by
      rintro rfl
      have key : ∀ cs : List (Bool × ErrorCode), (∀ x ∈ cs, x.2 ≠ .bus) → firstError cs ≠ some .bus := by
        intro cs hcs
        induction cs with
        | nil => simp [firstError]
        | cons x rest ih =>
          obtain ⟨b, e⟩ := x
          have h1 := hcs (b, e) (by simp)
          have h2 := ih fun y hy => hcs y (by simp [hy])
          cases b <;> simp_all [firstError]
      refine key (checks i l s) ?_ hc
      cases i <;> simp [checks, gfBinaryChecks, gfDivChecks, gfInvChecks, rowAxpyChecks, rowScaleChecks,
        genDensityChecks, genFillChecks, genFillPartialChecks, decInitChecks, decConsumeChecks, decConsumeSysChecks,
        decQueryChecks, sessionChecks]
    cases e <;> simp_all [conclude, disturb]
  | none =>
    cases hb : body l with
    | ok u => exact .inr (.inr (.inr ⟨rfl, u, rfl, rfl⟩))
    | error e =>
      cases e with
      | bus => exact .inr (.inr (.inl ⟨rfl, rfl, rfl⟩))
      | _ => exact .inr (.inl ⟨rfl, _, by simp, rfl, rfl⟩)

/-- With no command in flight the engine does nothing (10_state.md R40). -/
theorem runCommand_idle {i : Instr} {s : State} {body : Latched → Except ErrorCode State} (h : s.eng = .idle) :
    runCommand i s body = .next s := by simp [runCommand, h]

/-- The engine never stops the machine: every command answers a next state. -/
theorem runCommand_next (i : Instr) (s : State) (body : Latched → Except ErrorCode State) :
    ∃ t, runCommand i s body = .next t := by
  unfold runCommand
  split <;> exact ⟨_, rfl⟩

/-- An undisturbed command's memory is its own. -/
theorem disturb_of_undisturbed {i : Instr} {l : Latched} {s : State} (h : disturbed i l s = false) (t : State) :
    disturb i l s t = t := by simp [disturb, h]

end Sys2Proof.Machine
end

