-- ==== Sys2Proof/Laws/Decoder.lean ====
section
/-! SUPPORT. The decoder: what its updates do to PIV, STAT and the counts, and that a session starts well formed. -/

namespace Sys2Proof.Machine

theorem pivAt_addPivot (d : Decoder) (col r : Nat) (h : col < d.piv.length) :
    pivAt (addPivot d col) r = if r = col then true else pivAt d r := by
  by_cases hr : r = col
  · subst hr
    simp [pivAt, h]
  · simp [pivAt, List.getD_eq_getElem?_getD, List.getElem?_set_ne (Ne.symm hr), hr]

theorem statAt_setStat (d : Decoder) (col r : Nat) (x : SymbolStatus) (h : col < d.stat.length) :
    statAt (setStat d col x) r = if r = col then x else statAt d r := by
  by_cases hr : r = col
  · subst hr
    simp [statAt, h]
  · simp [statAt, List.getD_eq_getElem?_getD, List.getElem?_set_ne (Ne.symm hr), hr]

theorem countStat_le (d : Decoder) (x : SymbolStatus) : countStat d x ≤ d.dn.toNat := by
  simpa [countStat] using List.countP_le_length (l := List.range d.dn.toNat) (p := fun r => decide (statAt d r = x))

/-- The counts a commit writes do not wrap: they are the numbers they count. -/
theorem updateCounts_toNat (d : Decoder) :
    (updateCounts d).cntMiss.toNat = countStat d .missing ∧
      (updateCounts d).cntPart.toNat = countStat d .partiallyDecoded ∧
      (updateCounts d).cntDec.toNat = countStat d .decoded := by
  have h : ∀ x, countStat d x < 2 ^ 32 := fun x => lt_of_le_of_lt (countStat_le d x) d.dn.isLt
  simpa using ⟨h .missing, h .partiallyDecoded, h .decoded⟩

theorem pivAt_replicate (d : Decoder) (n r : Nat) (h : d.piv = List.replicate n false) : pivAt d r = false := by
  by_cases hr : r < n <;> simp [pivAt, h, List.getD_eq_getElem?_getD, hr]

theorem statAt_replicate (d : Decoder) (n r : Nat) (h : d.stat = List.replicate n .missing) :
    statAt d r = .missing := by
  by_cases hr : r < n <;> simp [statAt, h, List.getD_eq_getElem?_getD, hr]

@[simp] theorem reduction_zero (c : Config) (d : Decoder) (m : Memory) (v : Nat → Nat) (j : Nat) :
    reduction c d m v 0 j = v j := rfl

theorem reduction_succ (c : Config) (d : Decoder) (m : Memory) (v : Nat → Nat) (p j : Nat) :
    reduction c d m v (p + 1) j =
      gfAdd (reduction c d m v p j)
        (gfMul c d.dfield (pivotFactor c d m p (reduction c d m v p p)) (coefAt d m p j)) := rfl

/-- A row that is not stored reduces nothing. -/
theorem pivotFactor_of_not_stored {d : Decoder} {p : Nat} (h : pivAt d p = false) (c : Config) (m : Memory) (x : Nat) :
    pivotFactor c d m p x = 0 := by simp [pivotFactor, h]

@[simp] theorem pivotFactor_zero (c : Config) (d : Decoder) (m : Memory) (p : Nat) : pivotFactor c d m p 0 = 0 := by
  simp [pivotFactor]

/-- A session that the checks of DEC_INIT admit starts well formed. -/
theorem initDecoder_wf {c : Config} {f : Field} {l : Latched} (h : firstError (decInitChecks c f l) = none) :
    DecoderWf c (initDecoder c f l.ops) := by
  have hall := firstError_isNone.1 (show (firstError (decInitChecks c f l)).isNone = true by simp [h])
  simp only [decInitChecks, List.mem_cons, List.not_mem_nil, or_false, forall_eq_or_imp, forall_eq,
    Bool.or_eq_false_iff, Bool.not_eq_false', decide_eq_false_iff_not, not_lt, ne_eq, not_not] at hall
  obtain ⟨⟨⟨h1, h2⟩, h3⟩, ⟨h4, h5⟩, ⟨h6, h7⟩, h8, h9⟩ := hall
  have hp := pivAt_replicate (initDecoder c f l.ops) c.nmax
  have hs := statAt_replicate (initDecoder c f l.ops) c.nmax
  refine ⟨⟨by simp [initDecoder], by simp [initDecoder], h2, fun r => by simp [hp r rfl, hs r rfl],
    fun r _ => hp r rfl, ?_, ?_, ?_, ?_⟩, h4, h5, h6, h7, h8, h9, fun _ => ⟨?_, ?_⟩⟩
  · have hpiv : pivAt (initDecoder c f l.ops) = fun _ => false := funext fun r => hp r rfl
    rw [hpiv]
    simp [initDecoder]
  · simp [countStat, hs _ rfl]
    rfl
  · simp [countStat, hs _ rfl]
    rfl
  · simp [countStat, hs _ rfl]
    rfl
  · exact Nat.one_le_iff_ne_zero.2 h1
  · exact Nat.one_le_iff_ne_zero.2 h3

end Sys2Proof.Machine
end

