-- ==== Sys2Proof/Laws/PerInstr.lean ====
section
/-! SUPPORT. A statement about the syntax of every command, one lemma per constructor: its word is legal
(30_encoding.md R94), its reserved bits are 0 and F is the command's field (R91). -/

namespace Sys2Proof.Laws.EncodesLegally

/-- The word of `i` is covered by the opcode map, has RSV = 0, and its bit F is 1 exactly for GF(2^16). -/
def Statement (i : Instr) : Prop :=
  i.wellFormed = true ∧ legalWord (encode i) = true ∧ wordRsv (encode i) = 0 ∧
    wordF (encode i) = decide (i.fieldOf = some .gf16)

theorem nop : Statement .nop := by unfold Statement; decide
theorem gfAdd (f : Field) : Statement (.gfAdd f) := by cases f <;> (unfold Statement; decide)
theorem gfMul (f : Field) : Statement (.gfMul f) := by cases f <;> (unfold Statement; decide)
theorem gfDiv (f : Field) : Statement (.gfDiv f) := by cases f <;> (unfold Statement; decide)
theorem gfInv (f : Field) : Statement (.gfInv f) := by cases f <;> (unfold Statement; decide)
theorem rowAxpy (f : Field) : Statement (.rowAxpy f) := by cases f <;> (unfold Statement; decide)
theorem rowScale (f : Field) : Statement (.rowScale f) := by cases f <;> (unfold Statement; decide)
theorem genSeed : Statement .genSeed := by unfold Statement; decide
theorem genDensity : Statement .genDensity := by unfold Statement; decide
theorem genFill (f : Field) : Statement (.genFill f) := by cases f <;> (unfold Statement; decide)
theorem genFillPartial (f : Field) : Statement (.genFillPartial f) := by cases f <;> (unfold Statement; decide)
theorem decInit (f : Field) : Statement (.decInit f) := by cases f <;> (unfold Statement; decide)
theorem decConsume (f : Field) : Statement (.decConsume f) := by cases f <;> (unfold Statement; decide)
theorem decConsumeSys (f : Field) : Statement (.decConsumeSys f) := by cases f <;> (unfold Statement; decide)
theorem decUpdateStatus (f : Field) : Statement (.decUpdateStatus f) := by cases f <;> (unfold Statement; decide)
theorem decQuery (f : Field) : Statement (.decQuery f) := by cases f <;> (unfold Statement; decide)

end Sys2Proof.Laws.EncodesLegally
end

