-- ==== Sys2Proof/Laws/Run.lean ====
section
/-! SUPPORT. Runs (44_engine_control.md R238): how they compose, and what a clean one says. -/

namespace Sys2Proof.Machine

theorem stepsTo_one {s t : State} : stepsTo 1 s t ↔ step s = .next t := by
  simp [stepsTo]

theorem stepsTo_append {m n : Nat} {s t u : State} (h : stepsTo m s t) (k : stepsTo n t u) :
    stepsTo (m + n) s u := by
  induction m generalizing s with
  | zero =>
    cases h
    simpa using k
  | succ m ih =>
    obtain ⟨v, hv, hr⟩ := h
    rw [Nat.add_right_comm]
    exact ⟨v, hv, ih hr⟩

theorem noCommandFails_stepsTo {n : Nat} {s t : State} (h : noCommandFails n s t) : stepsTo n s t := by
  induction n generalizing s with
  | zero => exact h
  | succ n ih =>
    obtain ⟨u, hu, -, hr⟩ := h
    exact ⟨u, hu, ih hr⟩

/-- A step taken with no command in flight ends none with an error. -/
theorem commandFails_of_idle {s : State} (h : isBusy s = false) (u : State) : commandFails s u = false := by
  simp [commandFails, h]

end Sys2Proof.Machine
end

