-- ==== Sys2Proof/Tests/Slice0.lean ====
section
/-! SUPPORT. The model's own tests: the well-formedness smoke tests, the decoding of words written out from
30_encoding.md R91 and R93, single steps with results from 95_test_vectors.md, and for each statement with hypotheses a
witness that meets them. -/

namespace Sys2Proof.Tests

-- One theorem at a time: each waits on the kernel, and a thread per waiting theorem would exceed the memory limit.
set_option Elab.async false

open Sys2Proof.Machine

/-! ### Well-formedness -/

theorem test_reference_config_is_well_formed : Config.reference.wellFormed = true := by decide +kernel
theorem test_config_nmax_zero_refused : ({ Config.reference with nmax := 0 } : Config).wellFormed = false := by decide
theorem test_config_nmax_too_large_refused : ({ Config.reference with nmax := 65536 } : Config).wellFormed = false := by
  decide
theorem test_config_reg_base_unaligned_refused :
    ({ Config.reference with regBase := 0x104 } : Config).wellFormed = false := by decide
theorem test_config_poly8_wrong_degree_refused :
    ({ Config.reference with poly8 := 0x1D } : Config).wellFormed = false := by decide +kernel
/-- x^8 + 1 = (x + 1)^8. -/
theorem test_config_poly8_reducible_refused :
    ({ Config.reference with poly8 := 0x101 } : Config).wellFormed = false := by decide +kernel
/-- x^16 + x is divisible by x. -/
theorem test_config_poly16_reducible_refused :
    ({ Config.reference with poly16 := 0x10002 } : Config).wellFormed = false := by decide +kernel
theorem test_word_reserved_bit_refused : legalWord 0x00000202 = false ∧ decode 0x00000202 = none := by decide
theorem test_word_unknown_opcode_refused : legalWord 0x00000005 = false ∧ decode 0x00000005 = none := by decide
theorem test_word_nop_with_field_refused : legalWord 0x00000100 = false ∧ decode 0x00000100 = none := by decide
theorem test_word_density_with_field_refused : legalWord 0x00000121 = false ∧ decode 0x00000121 = none := by decide

/-- No two rows of the opcode map cover one word: two patterns differ in a bit both masks compare. -/
theorem test_opcode_rows_do_not_overlap :
    opcodeTable.Pairwise fun r q => (r.pattern ^^^ q.pattern) &&& r.mask &&& q.mask ≠ 0 := by decide

/-! ### Decoding: words written out as OP[7:0], F[8], RSV[31:9] -/

theorem test_decode_nop : decode 0b00000000000000000000000_0_00000000 = some .nop := by decide
theorem test_decode_gf_add : decode 0b00000000000000000000000_0_00000001 = some (.gfAdd .gf8) := by decide
theorem test_decode_gf_mul : decode 0b00000000000000000000000_1_00000010 = some (.gfMul .gf16) := by decide
theorem test_decode_gf_div : decode 0b00000000000000000000000_0_00000011 = some (.gfDiv .gf8) := by decide
theorem test_decode_gf_inv : decode 0b00000000000000000000000_1_00000100 = some (.gfInv .gf16) := by decide
theorem test_decode_row_axpy : decode 0b00000000000000000000000_1_00010000 = some (.rowAxpy .gf16) := by decide
theorem test_decode_row_scale : decode 0b00000000000000000000000_0_00010001 = some (.rowScale .gf8) := by decide
theorem test_decode_gen_seed : decode 0b00000000000000000000000_0_00100000 = some .genSeed := by decide
theorem test_decode_gen_density : decode 0b00000000000000000000000_0_00100001 = some .genDensity := by decide
theorem test_decode_gen_fill : decode 0b00000000000000000000000_1_00100010 = some (.genFill .gf16) := by decide
theorem test_decode_gen_fill_partial : decode 0b00000000000000000000000_0_00100011 = some (.genFillPartial .gf8) := by
  decide
theorem test_decode_dec_init : decode 0b00000000000000000000000_1_00110000 = some (.decInit .gf16) := by decide
theorem test_decode_dec_consume : decode 0b00000000000000000000000_0_00110001 = some (.decConsume .gf8) := by decide
theorem test_decode_dec_consume_sys : decode 0b00000000000000000000000_1_00110010 = some (.decConsumeSys .gf16) := by
  decide
theorem test_decode_dec_update_status :
    decode 0b00000000000000000000000_0_00110011 = some (.decUpdateStatus .gf8) := by decide
theorem test_decode_dec_query : decode 0b00000000000000000000000_1_00110100 = some (.decQuery .gf16) := by decide
theorem test_encode_worked_words :
    encode (.gfMul .gf8) = 0x002 ∧ encode (.gfMul .gf16) = 0x102 ∧ encode (.rowAxpy .gf16) = 0x110 ∧
      encode .genSeed = 0x020 ∧ encode (.decConsume .gf8) = 0x031 ∧ encode (.decInit .gf16) = 0x130 := by decide
theorem test_table_word : decodeTableWord 32 0x130 = some (.decInit .gf16) ∧ decodeTableWord 32 0x120 = none := by decide

/-! ### Helpers: a small configuration, a machine with a command in flight, the state after one step -/

/-- The reference configuration with NMAX = 4. -/
def tiny : Config := { Config.reference with nmax := 4 }

/-- The reset state in the small configuration. -/
def base : State := { State.reset with config := tiny, dec := Decoder.reset 4 }

/-- The command word `w` in flight with its operands. -/
def inFlight (s : State) (w a0 a1 a2 a3 : Word) : State :=
  { s with eng := .busy { cmd := w, ops := ⟨a0, a1, a2, a3⟩, su := s.ctrl.su, sysdup := s.ctrl.sysdup } }

/-- The state after one step; `s` where the step gives none. -/
def after (s : State) : State :=
  match step s with
  | .next t => t
  | _ => s

/-- One host input to a quiet machine. -/
def given (s : State) (i : Input) : State := { s with inputs := [i] }

/-- `n` bytes from `a`. -/
def bytesAt (s : State) (a n : Nat) : List Nat := (List.range n).map fun i => (Memory.read s.memory (a + i)).toNat

/-- RES and ERRCODE after one step. -/
def resAndError (s : State) : Nat × Nat := ((after s).res.toNat, (after s).status.errCode.toNat)

/-- STATUS, RES, RANK and the codes of STAT[0..2] after one step. -/
def decoded (s : State) : Nat × Nat × Nat × List Nat :=
  ((statusWord (after s)).toNat, (after s).res.toNat, (after s).dec.rank.toNat,
    (List.range 3).map fun r => statCode (statAt (after s).dec r))

/-! ### Single steps, results from 95_test_vectors.md -/

/-- V-ENG E-2. -/
theorem test_nop : statusWord (after (inFlight base 0x000 0 0 0 0)) = 0x00000002 := by decide +kernel
/-- V-ENG E-3. -/
theorem test_illegal_word :
    statusWord (after (inFlight base 0x005 0 0 0 0)) = 0x00010006 ∧
      (after (inFlight base 0x005 0 0 0 0)).errCmd = 0x005 := by decide +kernel
/-- V-GF. -/
theorem test_gf_add : resAndError (inFlight base 0x001 0x53 0xCA 0 0) = (0x99, 0) := by decide +kernel
theorem test_gf_add_range : resAndError (inFlight base 0x001 0x01 0xFFFFFFFF 0 0) = (0, 2) := by decide +kernel
theorem test_gf_mul : resAndError (inFlight base 0x002 0x53 0xCA 0 0) = (0x8F, 0) := by decide +kernel
theorem test_gf_mul16 : resAndError (inFlight base 0x102 0x1234 0xABCD 0 0) = (0x4792, 0) := by decide +kernel
theorem test_gf_div : resAndError (inFlight base 0x003 0x53 0xCA 0 0) = (0x6D, 0) := by decide +kernel
theorem test_gf_div_range_before_zero : resAndError (inFlight base 0x003 0x100 0 0 0) = (0, 2) := by decide +kernel
theorem test_gf_inv16 : resAndError (inFlight base 0x104 0x1234 0 0 0) = (0x2CE9, 0) := by decide +kernel
theorem test_gf_inv_zero : resAndError (inFlight base 0x004 0 0 0 0) = (0, 9) := by decide +kernel

/-- V-ROW R-1. -/
theorem test_row_axpy :
    bytesAt (after (inFlight { base with memory := [(0, 1), (1, 2), (2, 3), (0x10, 0x53), (0x11, 0x80), (0x12, 0xFF)] }
      0x010 0 0x10 3 0xCA)) 0 3 = [0x8E, 0xFF, 0x18] := by decide +kernel
/-- V-ROW R-6: an exact alias. -/
theorem test_row_axpy_alias :
    bytesAt (after (inFlight { base with memory := [(0, 0x53), (1, 0x80), (2, 0xFF)] } 0x010 0 0 3 3)) 0 3 =
      [0xA6, 0x1D, 0xE3] := by decide +kernel
/-- V-ROW R-4. -/
theorem test_row_scale16 :
    bytesAt (after (inFlight { base with memory := [(0, 0x34), (1, 0x12), (2, 0xFF), (3, 0xFF)] }
      0x111 0 0 4 0xABCD)) 0 4 = [0x92, 0x47, 0xF6, 0xF2] := by decide +kernel
/-- V-ROW R-E8, with s = 0 as well (41_row_combiner.md R143): the last dst byte is outside MEM_OK. -/
theorem test_row_axpy_bus_error :
    let s := { base with config := { tiny with backed := [⟨0, 0x80000000⟩] } }
    (after (inFlight s 0x010 0x80000000 0x10 4 1)).status.errCode = 0x0B ∧
      (after (inFlight s 0x010 0x7FFFFFFD 0x10 4 0)).status.errCode = 0x0B := by decide +kernel
/-- V-ROW R-8: every byte becomes 0, and memory is canonical again. -/
theorem test_row_scale_zero :
    (after (inFlight { base with memory := [(0, 0x53), (1, 0x80), (2, 0xFF)] } 0x011 0 0 3 0)).memory = [] := by
  decide +kernel

/-- V-GEN, seeding. -/
theorem test_gen_seed : (after (inFlight base 0x020 0xDEADBEEF 0 0 0)).gen.gstate = 0xDEADBEEF21524110 := by
  decide +kernel
/-- V-GEN, density thresholds. -/
theorem test_gen_density :
    (after (inFlight base 0x021 0x3DCCCCCD 0 0 0)).gen =
      { gstate := 0xFFFFFFFF, gdens := 0x3DCCCCCD, gfull := false, gt := 0x199999A0 } := by decide +kernel
theorem test_gen_density_above_one : (after (inFlight base 0x021 0x3F800001 0 0 0)).status.errCode = 0x08 := by
  decide +kernel

/-- The generator after GEN_SEED 1. -/
def seeded : State := { base with gen := { base.gen with gstate := 0x00000001FFFFFFFE } }

/-- V-GEN G-3. -/
theorem test_gen_fill16 :
    bytesAt (after (inFlight seeded 0x122 0 4 0 0)) 0 8 = [0x81, 0xC7, 0xF9, 0x1E, 0x65, 0xA4, 0x6D, 0x51] ∧
      (after (inFlight seeded 0x122 0 4 0 0)).gen.gstate = 0x7F50516D445AF03E := by decide +kernel
/-- V-GEN G-4: density 0.5. -/
theorem test_gen_fill_density :
    bytesAt (after (inFlight { seeded with gen := { seeded.gen with gfull := false, gt := 0x80000000 } }
      0x022 0 8 0 0)) 0 8 = [0xF9, 0x00, 0xC6, 0x00, 0x00, 0x00, 0x68, 0xA1] := by decide +kernel
/-- V-GEN G-6. -/
theorem test_gen_fill_partial :
    bytesAt (after (inFlight { seeded with memory := [(0x100, 0xA5), (0x101, 0x02)] } 0x023 0 10 0x100 0)) 0 10 =
      [0x81, 0x00, 0x65, 0x00, 0x00, 0x83, 0x00, 0x67, 0x00, 0x68] := by decide +kernel
/-- 42_coeff_generator.md R162: the first four draws from seed_state(1). -/
theorem test_draws :
    let g := fun n => nextState^[n] 0x00000001FFFFFFFE
    (drawOf (g 0), drawOf (g 1), drawOf (g 2), drawOf (g 3)) = (0x7F03C781, 0x27E01EF9, 0x9906A465, 0x7F50516D) := by
  decide +kernel
theorem test_gen_fill_partial_overlap : (after (inFlight seeded 0x023 0 16 1 0)).status.errCode = 0x05 := by
  decide +kernel

/-- V-DEC-1 after DEC_INIT.8 3, 2, 0x1000, 0x2000. -/
def session : State := { base with dec := initDecoder tiny .gf8 ⟨3, 2, 0x1000, 0x2000⟩ }

/-- V-DEC-1 after p0: row 0 = 01 02 03 / 88 00, and packet p1 at 0x310 and 0x410. -/
def oneRow : State :=
  { session with
    dec := { session.dec with
      rank := 1, cntMiss := 2, cntPart := 1
      piv := [true, false, false, false]
      stat := [.partiallyDecoded, .missing, .missing, .missing] }
    memory :=
      [(0x310, 2), (0x311, 1), (0x312, 1), (0x410, 0x44), (0x411, 0x66),
       (0x1000, 1), (0x1001, 2), (0x1002, 3), (0x2000, 0x88)] }

theorem test_dec_init : (after (inFlight base 0x030 3 2 0x1000 0x2000)).dec = session.dec := by decide +kernel
/-- V-DEC-5 D-9 and D-10: the regions touch at 0x1009. -/
theorem test_dec_init_adjacent_regions :
    (after (inFlight base 0x030 3 2 0x1000 0x1008)).status.errCode = 0x05 ∧
      (after (inFlight base 0x030 3 2 0x1000 0x1009)).status.errCode = 0 := by decide +kernel
/-- V-DEC-1, p1: STATUS, RES, RANK, STAT, and both matrices. -/
theorem test_dec_consume :
    decoded (inFlight oneRow 0x031 0x310 0x410 0 0) = (0xA2, 1, 2, [1, 1, 0]) ∧
      bytesAt (after (inFlight oneRow 0x031 0x310 0x410 0 0)) 0x1000 6 = [0x01, 0x00, 0xA7, 0x00, 0x01, 0x52] ∧
      bytesAt (after (inFlight oneRow 0x031 0x310 0x410 0 0)) 0x2000 4 = [0x00, 0x3C, 0x44, 0x1E] := by decide +kernel
/-- V-DEC-5 D-14: a zero stored pivot. -/
theorem test_dec_consume_zero_pivot :
    (after (inFlight { oneRow with memory := [(0x340, 1)] } 0x031 0x340 0x400 0 0)).status.errCode = 0x09 := by
  decide +kernel
/-- V-DEC-3, X1 at index 1 after p0. -/
theorem test_dec_consume_sys :
    decoded (inFlight { oneRow with memory := [(0x320, 0x33), (0x321, 0x44), (0x1000, 1), (0x1001, 2), (0x1002, 3),
      (0x2000, 0x88)] } 0x032 1 0x320 0 0) = (0xA2, 1, 2, [1, 2, 0]) ∧
    bytesAt (after (inFlight { oneRow with memory := [(0x320, 0x33), (0x321, 0x44), (0x1000, 1), (0x1001, 2),
      (0x1002, 3), (0x2000, 0x88)] } 0x032 1 0x320 0 0)) 0x2000 4 = [0xEE, 0x88, 0x33, 0x44] := by decide +kernel
/-- V-DEC-3, X0 at index 0 after p0, under both policies: discarded, or inserted at column 1. -/
theorem test_dec_consume_sys_duplicate :
    decoded (inFlight oneRow 0x032 0 0x330 0 0) = (0xB2, 0xFFFFFFFF, 1, [1, 0, 0]) ∧
      decoded (inFlight { oneRow with ctrl := ⟨false, false, true⟩ } 0x032 0 0x330 0 0) = (0xA2, 1, 2, [1, 1, 0]) := by
  decide +kernel

/-- V-DEC-4 after the second consume: row 0 is a unit row that is still PartiallyDecoded. -/
def collapsed : State :=
  { base with
    dec := { initDecoder tiny .gf8 ⟨2, 1, 0x1000, 0x2000⟩ with
      rank := 2, cntMiss := 0, cntPart := 1, cntDec := 1
      piv := [true, true, false, false]
      stat := [.partiallyDecoded, .decoded, .missing, .missing] }
    memory := [(0x1000, 1), (0x1003, 1), (0x2000, 7), (0x2001, 9)] }

theorem test_dec_update_status :
    (statusWord collapsed).toNat = 0xE0 ∧
      decoded (inFlight collapsed 0x033 0 0 0 0) = (0x62, 0, 2, [2, 2, 0]) := by decide +kernel
theorem test_dec_query :
    resAndError (inFlight collapsed 0x034 1 0 0 0) = (2, 0) ∧
      resAndError (inFlight collapsed 0x034 2 0 0 0) = (0, 2) := by decide +kernel
/-- V-DEC-5 D-1 and D-3. -/
theorem test_session_checks :
    (after (inFlight base 0x131 0x300 0x400 0 0)).status.errCode = 0x06 ∧
      (after (inFlight session 0x134 0 0 0 0)).status.errCode = 0x07 := by decide +kernel
/-- V-DEC-5 D-18: the vector is not backed; the session ends. -/
theorem test_bus_error_ends_the_session :
    let s := { session with config := { tiny with backed := [⟨0, 0x300⟩, ⟨0x301, 0x10000⟩] } }
    (after (inFlight s 0x031 0x300 0x400 0 0)).status.errCode = 0x0B ∧
      (after (inFlight s 0x031 0x300 0x400 0 0)).dec.init = false := by decide +kernel

/-! ### The host's side -/

/-- V-ENG E-1. -/
theorem test_register_reads :
    (after (given State.reset (.regRead 0x00 4))).hostData = some 0x524C4E43 ∧
      (after (given State.reset (.regRead 0x04 4))).hostData = some 0x00030100 ∧
      (after (given State.reset (.regRead 0x4C 4))).hostData = some 0x3F800000 ∧
      (after (given State.reset (.regRead 0x50 4))).hostData = some 0xFFFFFFFF ∧
      (after (given State.reset (.regRead 0x58 4))).hostData = some 0 := by decide +kernel
/-- V-ENG E-4 and E-5. -/
theorem test_error_return :
    let e := after (inFlight base 0x005 0 0 0 0)
    statusWord (after (given e (.regWrite 0x10 4 0))) = 0x0001000E ∧
      statusWord (after (given (after (given e (.regWrite 0x10 4 0))) (.regWrite 0x0C 4 0x0E))) = 0 := by decide +kernel
/-- V-ENG E-9. -/
theorem test_soft_reset_wins :
    ctrlWord (after (given session (.regWrite 0x08 4 0x80000006))) = 0 ∧
      (after (given session (.regWrite 0x08 4 0x80000006))).dec = Decoder.reset 4 := by decide +kernel
/-- V-ENG E-12. -/
theorem test_issue_while_busy :
    (after (given (inFlight base 0x001 1 2 0 0) (.regWrite 0x10 4 0))).eng = (inFlight base 0x001 1 2 0 0).eng ∧
      (after (given (inFlight base 0x001 1 2 0 0) (.regWrite 0x10 4 0))).status.cmdLost = true := by decide +kernel
/-- A0-A3 and CTRL read back what was written; ID and a reserved offset do not change. -/
theorem test_register_writes :
    (after (given base (.regWrite 0x14 4 0x89ABCDEF))).ops.a0 = 0x89ABCDEF ∧
      (after (given base (.regWrite 0x20 4 0x89ABCDEF))).ops.a3 = 0x89ABCDEF ∧
      ctrlWord (after (given base (.regWrite 0x08 4 0x7FFFFFFF))) = 7 ∧
      after (given base (.regWrite 0x00 4 7)) = base ∧ after (given base (.regWrite 0xFC 4 7)) = base := by
  decide +kernel
theorem test_fetch_word_runs :
    step (State.reset.withFetchWord 32 0x20) = exec .genSeed (State.reset.withFetchWord 32 0x20) := rfl
theorem test_narrow_access_refused : step (given State.reset (.regWrite 0x14 2 7)) = .refused .portAccess := rfl

/-! ### Witnesses: the hypotheses of each statement can be met together -/

/-- Every region below 2^32 is backed in the small configuration. -/
theorem tiny_mapped {rs : List Region} (h : ∀ r ∈ rs, r.base + r.len ≤ 2 ^ 32) : allMapped tiny rs := by
  intro a ha
  simp only [regionsHave, List.any_eq_true, regionHas, Bool.and_eq_true, decide_eq_true_eq] at ha
  obtain ⟨r, hr, h1, h2⟩ := ha
  have hb := h r hr
  have hlt : a < 2 ^ 32 := by omega
  simp [memOk, regionsHave, regionHas, tiny, Config.reference]
  omega

theorem tiny_wellFormed : tiny.wellFormed = true := by decide +kernel

theorem session_wf : DecoderWf session.config session.dec :=
  initDecoder_wf (c := tiny) (f := .gf8) (l := ⟨0, ⟨3, 2, 0x1000, 0x2000⟩, false, false⟩) (by decide +kernel)

/-- The latched command of `inFlight`, with CTRL at reset. -/
def latched (w a0 a1 a2 a3 : Word) : Latched := ⟨w, ⟨a0, a1, a2, a3⟩, false, false⟩

theorem witness_StepRunsTheDecodedCommand :
    ∃ (s : State) (l : Latched) (i : Instr),
      s.inReset = false ∧ s.eng = .busy l ∧ decode l.cmd = some i ∧ engineNext s :=
  ⟨inFlight base 0 0 0 0 0, latched 0 0 0 0 0, .nop, rfl, rfl, by decide, .inl rfl⟩

/-- The engine's turn with no command in flight. -/
theorem witness_StepRunsTheDecodedCommand_idle :
    ∃ s : State, s.inReset = false ∧ s.eng = .idle ∧ engineNext s ∧ s.inputs ≠ [] :=
  ⟨given oneRow .engine, rfl, rfl, .inr rfl, by decide⟩

theorem witness_IllegalWordEndsWithErrIllegal :
    ∃ (s : State) (l : Latched), s.inReset = false ∧ s.eng = .busy l ∧ decode l.cmd = none ∧ engineNext s :=
  ⟨inFlight base 5 0 0 0 0, latched 5 0 0 0 0, rfl, rfl, by decide, .inl rfl⟩

theorem witness_CommandIssueIsAccepted :
    ∃ (s : State) (rest : List Input) (w : Word),
      s.inputs = .regWrite (s.config.regBase + 0x10) 4 w :: rest ∧ s.config.regBase % 256 = 0 ∧
      s.inReset = false ∧ s.eng = .idle ∧ s.status.err = false :=
  ⟨given base (.regWrite 0x10 4 5), [], 5, rfl, rfl, rfl, rfl, rfl⟩

theorem witness_CommandIssueIsRefusedWhileBusyOrErr :
    (∃ (s : State) (rest : List Input) (w : Word),
      s.inputs = .regWrite (s.config.regBase + 0x10) 4 w :: rest ∧ s.config.regBase % 256 = 0 ∧
      s.inReset = false ∧ isBusy s = true) ∧
    ∃ (s : State) (rest : List Input) (w : Word),
      s.inputs = .regWrite (s.config.regBase + 0x10) 4 w :: rest ∧ s.config.regBase % 256 = 0 ∧
      s.inReset = false ∧ s.status.err = true :=
  ⟨⟨given (inFlight base 0 0 0 0 0) (.regWrite 0x10 4 5), [], 5, rfl, rfl, rfl, rfl⟩,
   ⟨given { base with status := ⟨true, true, false, 1⟩ } (.regWrite 0x10 4 5), [], 5, rfl, rfl, rfl, rfl⟩⟩

theorem witness_CommandsIgnoreLiveOperandsAndCtrl :
    ∃ (i : Instr) (s t : State), exec i s = .next t :=
  ⟨.nop, base, base, rfl⟩

/-- NopOnlyCompletes, the four GF statements, GenSeedLoadsTheSeedState, GenDensitySetsTheThreshold and
DecInitBindsANewSession ask only for a command in flight. -/
theorem witness_command_in_flight :
    ∃ (s : State) (l : Latched), s.eng = .busy l :=
  ⟨inFlight base 0 0 0 0 0, latched 0 0 0 0 0, rfl⟩

theorem witness_FieldLawsHold :
    ∃ (c : Config) (f : Field) (a b d : Nat),
      c.wellFormed = true ∧ a < 2 ^ f.width ∧ b < 2 ^ f.width ∧ d < 2 ^ f.width ∧ a ≠ 0 ∧ b ≠ 0 :=
  ⟨tiny, .gf16, 0xFFFF, 0x8000, 1, tiny_wellFormed, by decide, by decide, by decide, by decide, by decide⟩

theorem witness_ProductIsReducedModuloThePolynomial :
    ∃ (c : Config) (f : Field) (a b : Nat), c.wellFormed = true ∧ a < 2 ^ f.width ∧ b < 2 ^ f.width :=
  ⟨tiny, .gf8, 0xFF, 0x80, tiny_wellFormed, by decide, by decide⟩

/-- A ROW_AXPY.16 whose dst ends exactly at 2^32. -/
theorem witness_RowAxpyCombinesEveryLane :
    ∃ (f : Field) (s : State) (l : Latched),
      s.config.wellFormed = true ∧ Memory.wf s.memory ∧ s.eng = .busy l ∧ disturbed (.rowAxpy f) l s = false ∧
      l.ops.a3.toNat < 2 ^ f.width ∧ l.ops.a0.toNat + l.ops.a2.toNat = 2 ^ 32 ∧
      l.ops.a1.toNat + l.ops.a2.toNat ≤ 2 ^ 32 ∧ l.ops.a0.toNat % f.bytes = 0 ∧ l.ops.a1.toNat % f.bytes = 0 ∧
      l.ops.a2.toNat % f.bytes = 0 ∧ partialOverlap (rowDst l) (rowSrc l) = false ∧
      allMapped s.config [rowDst l, rowSrc l] :=
  ⟨.gf16, inFlight oneRow 0x110 0xFFFFFFFC 0x2000 4 7, latched 0x110 0xFFFFFFFC 0x2000 4 7, tiny_wellFormed,
    by decide +kernel, rfl, by decide +kernel, by decide, by decide, by decide, by decide, by decide, by decide,
    by decide, tiny_mapped (by decide)⟩

theorem witness_RowScaleMultipliesEveryLane :
    ∃ (f : Field) (s : State) (l : Latched),
      s.config.wellFormed = true ∧ Memory.wf s.memory ∧ s.eng = .busy l ∧ disturbed (.rowScale f) l s = false ∧
      l.ops.a3.toNat < 2 ^ f.width ∧ l.ops.a0.toNat + l.ops.a2.toNat = 2 ^ 32 ∧ l.ops.a0.toNat % f.bytes = 0 ∧
      l.ops.a2.toNat % f.bytes = 0 ∧ allMapped s.config [rowDst l] :=
  ⟨.gf16, inFlight oneRow 0x111 0xFFFFFFFC 0 4 7, latched 0x111 0xFFFFFFFC 0 4 7, tiny_wellFormed, by decide +kernel,
    rfl, by decide +kernel, by decide, by decide, by decide, by decide, tiny_mapped (by decide)⟩

/-- Each clause of RowCommandsCheckInOrder at a boundary: the code its operands give (V-ROW R-E1 to R-E6). -/
theorem witness_RowCommandsCheckInOrder :
    (after (inFlight base 0x010 0xFFFFFFFD 0x10 4 1)).status.errCode = 0x02 ∧
      (after (inFlight base 0x010 0x10 0xFFFFFFFD 4 1)).status.errCode = 0x02 ∧
      (after (inFlight base 0x110 1 0x10 4 1)).status.errCode = 0x03 ∧
      (after (inFlight base 0x110 0 0x10 3 1)).status.errCode = 0x04 ∧
      (after (inFlight base 0x010 0 3 4 1)).status.errCode = 0x05 ∧
      (after (inFlight base 0x011 0 0 4 0x100)).status.errCode = 0x02 ∧
      (after (inFlight base 0x111 1 0 4 1)).status.errCode = 0x03 ∧
      (after (inFlight base 0x111 0 0 3 1)).status.errCode = 0x04 := by decide +kernel

theorem witness_DensityThresholdIsTheFloor :
    (∃ d : Word, d.toNat = 0x3F800000) ∧ (∃ d : Word, densityOk d = true ∧ d.toNat = 0x3F7FFFFF) ∧
      ∃ d : Word, densityOk d = true ∧ d.toNat / 2 ^ 23 = 0 :=
  ⟨⟨0x3F800000, rfl⟩, ⟨0x3F7FFFFF, by decide, rfl⟩, ⟨1, by decide, by decide⟩⟩

theorem witness_GenFillWritesTheDrawnVector :
    ∃ (f : Field) (s : State) (l : Latched),
      Memory.wf s.memory ∧ s.eng = .busy l ∧ disturbed (.genFill f) l s = false ∧
      l.ops.a0.toNat + l.ops.a1.toNat * f.bytes = 2 ^ 32 ∧ l.ops.a0.toNat % f.bytes = 0 ∧
      allMapped s.config [fillOut f l] :=
  ⟨.gf16, inFlight oneRow 0x122 0xFFFFFFFC 2 0 0, latched 0x122 0xFFFFFFFC 2 0 0, by decide +kernel, rfl,
    by decide +kernel, by decide, by decide, tiny_mapped (by decide)⟩

theorem witness_GenFillPartialMasksTheDrawnVector :
    ∃ (f : Field) (s : State) (l : Latched),
      Memory.wf s.memory ∧ s.eng = .busy l ∧ disturbed (.genFillPartial f) l s = false ∧
      l.ops.a0.toNat + l.ops.a1.toNat * f.bytes ≤ 2 ^ 32 ∧ l.ops.a2.toNat + (l.ops.a1.toNat + 7) / 8 = 2 ^ 32 ∧
      l.ops.a0.toNat % f.bytes = 0 ∧ regionsMeet (fillOut f l) (fillMask l) = false ∧
      allMapped s.config [fillOut f l, fillMask l] :=
  ⟨.gf8, inFlight oneRow 0x023 0 9 0xFFFFFFFE 0, latched 0x023 0 9 0xFFFFFFFE 0, by decide +kernel, rfl,
    by decide +kernel, by decide, by decide, by decide, by decide, tiny_mapped (by decide)⟩

/-- Each clause of FillCommandsCheckInOrder at a boundary. -/
theorem witness_FillCommandsCheckInOrder :
    (after (inFlight base 0x022 0xFFFFFFFF 2 0 0)).status.errCode = 0x02 ∧
      (after (inFlight base 0x122 1 2 0 0)).status.errCode = 0x03 ∧
      (after (inFlight base 0x023 0 9 0xFFFFFFFF 0)).status.errCode = 0x02 ∧
      (after (inFlight base 0x123 1 2 0x10 0)).status.errCode = 0x03 ∧
      (after (inFlight base 0x023 0 9 8 0)).status.errCode = 0x05 := by decide +kernel

theorem witness_RegistersAreWrittenOnlyByTheirCommands :
    ∃ (i : Instr) (s t : State),
      exec i s = .next t ∧ (∀ f, i ≠ .gfAdd f ∧ i ≠ .gfMul f ∧ i ≠ .gfDiv f ∧ i ≠ .gfInv f ∧
      i ≠ .decConsume f ∧ i ≠ .decConsumeSys f ∧ i ≠ .decQuery f) :=
  ⟨.nop, base, base, rfl, fun _ => by simp⟩

/-- Each clause of DecInitBindsANewSession at a boundary: N = NMAX + 1, N = NMAX, S odd, an odd base, regions that meet
in one byte. -/
theorem witness_DecInitBindsANewSession :
    (after (inFlight base 0x030 5 1 0 0x100)).status.errCode = 0x02 ∧
      (after (inFlight base 0x030 4 1 0 0x100)).status.errCode = 0 ∧
      (after (inFlight base 0x030 4 1 0xFFFFFFF1 0x100)).status.errCode = 0x02 ∧
      (after (inFlight base 0x130 2 3 0 0x100)).status.errCode = 0x04 ∧
      (after (inFlight base 0x130 2 4 0 0x101)).status.errCode = 0x03 ∧
      (after (inFlight base 0x030 4 1 0 15)).status.errCode = 0x05 := by decide +kernel

theorem witness_SessionCommandsCheckInitThenField :
    (∃ (f : Field) (i : Instr) (s : State) (l : Latched), s.eng = .busy l ∧
      i ∈ [.decConsume f, .decConsumeSys f, .decUpdateStatus f, .decQuery f] ∧ s.dec.init = false) ∧
    ∃ (f : Field) (i : Instr) (s : State) (l : Latched), s.eng = .busy l ∧
      i ∈ [.decConsume f, .decConsumeSys f, .decUpdateStatus f, .decQuery f] ∧ s.dec.init = true ∧ f ≠ s.dec.dfield :=
  ⟨⟨.gf8, .decQuery .gf8, inFlight base 0x34 0 0 0 0, latched 0x34 0 0 0 0, rfl, by decide, rfl⟩,
   ⟨.gf16, .decQuery .gf16, inFlight session 0x134 0 0 0 0, latched 0x134 0 0 0 0, rfl, by decide, rfl, by decide⟩⟩

/-- The 16-bit session of V-DEC-2. -/
def session16 : State := { base with dec := initDecoder tiny .gf16 ⟨2, 4, 0x4000, 0x5000⟩ }

/-- Each clause of ConsumeCommandsCheckInOrder at a boundary. -/
theorem witness_ConsumeCommandsCheckInOrder :
    (after (inFlight session 0x031 0xFFFFFFFE 0x400 0 0)).status.errCode = 0x02 ∧
      (after (inFlight session16 0x131 0x301 0x400 0 0)).status.errCode = 0x03 ∧
      (after (inFlight session 0x031 0xFFE 0x400 0 0)).status.errCode = 0x05 ∧
      (after (inFlight session 0x032 3 0x400 0 0)).status.errCode = 0x02 ∧
      (after (inFlight session16 0x132 1 0x401 0 0)).status.errCode = 0x03 ∧
      (after (inFlight session 0x032 2 0x2005 0 0)).status.errCode = 0x05 := by decide +kernel

/-- DecQueryReadsTheStatusCode asks only for a command in flight; each outcome is met: no session, another field, the
index DN, the index DN - 1. -/
theorem witness_DecQueryReadsTheStatusCode :
    resAndError (inFlight base 0x034 0 0 0 0) = (0, 6) ∧ resAndError (inFlight session 0x134 0 0 0 0) = (0, 7) ∧
      resAndError (inFlight session 0x034 3 0 0 0) = (0, 2) ∧ resAndError (inFlight session 0x034 2 0 0 0) = (0, 0) := by
  decide +kernel

theorem witness_DecUpdateStatusReclassifiesUnitRows :
    ∃ (s : State) (l : Latched), s.eng = .busy l ∧ s.dec.init = true ∧ allMapped s.config [coefRegion s.dec] ∧
      statAt s.dec 0 = .partiallyDecoded ∧ rowNonzeros s.dec s.memory 0 = 1 :=
  ⟨inFlight collapsed 0x33 0 0 0 0, latched 0x33 0 0 0 0, rfl, rfl, tiny_mapped (by decide), rfl, by decide +kernel⟩

/-- The zero pivot of V-DEC-5 D-14, at the first row. -/
theorem witness_CorruptMatrixStopsAConsume_div0 :
    ∃ (s : State) (l : Latched) (p : Nat), s.eng = .busy l ∧ checksPass (.decConsume s.dec.dfield) l s = true ∧
      disturbed (.decConsume s.dec.dfield) l s = false ∧ allMapped s.config [consumeVector s.dec l] ∧
      p < s.dec.dn.toNat ∧ allMapped s.config [coefRegion s.dec] ∧
      zeroPivotAt s.config s.dec s.memory (fun j => (vectorAt s.dec s.memory l.ops.a0.toNat).getD j 0) p ∧
      ∀ q < p, ¬zeroPivotAt s.config s.dec s.memory
        (fun j => (vectorAt s.dec s.memory l.ops.a0.toNat).getD j 0) q :=
  ⟨inFlight { oneRow with memory := [(0x340, 1)] } 0x31 0x340 0x400 0 0, latched 0x31 0x340 0x400 0 0, 0, rfl,
    by decide +kernel, by decide +kernel, tiny_mapped (by decide), by decide, tiny_mapped (by decide),
    ⟨rfl, by decide +kernel, by decide +kernel⟩, fun q h => absurd h (Nat.not_lt_zero q)⟩

/-- The session of V-DEC-5 D-15, with COEF(1,0) overwritten by 1. -/
def corrupt : State := { collapsed with memory := [(0x321, 1), (0x1000, 1), (0x1002, 1), (0x1003, 1)] }

theorem witness_CorruptMatrixStopsAConsume_matrix :
    ∃ (s : State) (l : Latched) (w fs : List Nat) (col : Nat),
      s.eng = .busy l ∧ checksPass (.decConsume s.dec.dfield) l s = true ∧
      disturbed (.decConsume s.dec.dfield) l s = false ∧ allMapped s.config [consumeVector s.dec l] ∧
      forward s.config s.dec s.memory (vectorAt s.dec s.memory l.ops.a0.toNat) = .ok (w, fs) ∧
      firstNonzeroAt w col ∧ pivAt s.dec col = true :=
  ⟨inFlight corrupt 0x31 0x320 0x400 0 0, latched 0x31 0x320 0x400 0 0, [1, 0], [0, 1], 0, rfl, by decide +kernel,
    by decide +kernel, tiny_mapped (by decide), by decide +kernel, ⟨by decide, by decide, by simp⟩, rfl⟩

/-- The clause about FORWARD: the vector of p1 of V-DEC-1 against the stored row 01 02 03, which meets INV; the result
02 01 01 + 2*(01 02 03) = 00 05 07 is of 95_test_vectors.md V-DEC-1. -/
theorem witness_DependentVectorIsDiscarded_forward :
    ∃ (c : Config) (d : Decoder) (m : Memory) (v : List Nat), v.length = d.dn.toNat ∧
      allMapped c [coefRegion d] ∧ c.wellFormed = true ∧ MatrixInv d m ∧ (∀ y ∈ v, y < 2 ^ d.dfield.width) ∧
      (∀ p < d.dn.toNat, ¬zeroPivotAt c d m (fun j => v.getD j 0) p) ∧
      (List.range 3).map (reduction c d m (fun j => v.getD j 0) 3) = [0, 5, 7] :=
  ⟨tiny, oneRow.dec, oneRow.memory, [2, 1, 1], rfl, tiny_mapped (by decide), tiny_wellFormed,
    ⟨by decide +kernel, by decide +kernel⟩, by decide,
    by simp only [zeroPivotAt]; decide +kernel, by decide +kernel⟩

/-- An all-zero vector (V-DEC-5 D-13). -/
theorem witness_DependentVectorIsDiscarded :
    ∃ (s : State) (l : Latched) (w fs : List Nat),
      s.eng = .busy l ∧ checksPass (.decConsume s.dec.dfield) l s = true ∧
      disturbed (.decConsume s.dec.dfield) l s = false ∧
      allMapped s.config [consumeVector s.dec l, coefRegion s.dec] ∧
      forward s.config s.dec s.memory (vectorAt s.dec s.memory l.ops.a0.toNat) = .ok (w, fs) ∧ ∀ x ∈ w, x = 0 :=
  ⟨inFlight session 0x31 0x300 0x400 0 0, latched 0x31 0x300 0x400 0 0, [0, 0, 0], [0, 0, 0], rfl, by decide +kernel,
    by decide +kernel, tiny_mapped (by decide), rfl, by simp⟩

/-- The first packet of V-DEC-1 into an empty session. -/
def firstPacket : State :=
  inFlight { session with memory := [(0x300, 1), (0x301, 2), (0x302, 3), (0x400, 0x88)] } 0x31 0x300 0x400 0 0

theorem witness_IndependentVectorIsInserted :
    ∃ (s : State) (l : Latched) (w fs : List Nat) (col : Nat),
      s.config.wellFormed = true ∧ Memory.wf s.memory ∧ DecoderWf s.config s.dec ∧ s.eng = .busy l ∧
      checksPass (.decConsume s.dec.dfield) l s = true ∧ disturbed (.decConsume s.dec.dfield) l s = false ∧
      allMapped s.config [consumeVector s.dec l, consumeSymbol s.dec l, coefRegion s.dec, symRegion s.dec] ∧
      forward s.config s.dec s.memory (vectorAt s.dec s.memory l.ops.a0.toNat) = .ok (w, fs) ∧
      firstNonzeroAt w col ∧ pivAt s.dec col = false :=
  ⟨firstPacket, latched 0x31 0x300 0x400 0 0, [1, 2, 3], [0, 0, 0], 0, tiny_wellFormed, by decide +kernel, session_wf,
    rfl, by decide +kernel, by decide +kernel, tiny_mapped (by decide), rfl, ⟨by decide, by decide, by simp⟩, rfl⟩

theorem witness_SystematicSymbolIsInserted :
    ∃ (s : State) (l : Latched),
      s.config.wellFormed = true ∧ Memory.wf s.memory ∧ DecoderWf s.config s.dec ∧ s.eng = .busy l ∧
      checksPass (.decConsumeSys s.dec.dfield) l s = true ∧ disturbed (.decConsumeSys s.dec.dfield) l s = false ∧
      allMapped s.config [consumeSymbol s.dec l, coefRegion s.dec, symRegion s.dec] ∧
      pivAt s.dec l.ops.a0.toNat = false :=
  ⟨inFlight session 0x32 2 0x400 0 0, latched 0x32 2 0x400 0 0, tiny_wellFormed, by decide +kernel, session_wf, rfl,
    by decide +kernel, by decide +kernel, tiny_mapped (by decide), rfl⟩

theorem witness_DuplicateSystematicSymbolIsANoOp :
    ∃ (s : State) (l : Latched), s.eng = .busy l ∧ checksPass (.decConsumeSys s.dec.dfield) l s = true ∧
      disturbed (.decConsumeSys s.dec.dfield) l s = false ∧ (l.su = true → allMapped s.config [coefRegion s.dec]) ∧
      pivAt s.dec l.ops.a0.toNat = true ∧ l.sysdup = false :=
  ⟨inFlight oneRow 0x32 0 0x330 0 0, latched 0x32 0 0x330 0 0, rfl, by decide +kernel, by decide +kernel,
    fun h => absurd h (by decide), rfl, rfl⟩

theorem witness_DuplicateSystematicSymbolIsConsumedAsItsUnitVector :
    ∃ (s : State) (l : Latched) (cv : Word),
      s.eng = .busy l ∧ checksPass (.decConsumeSys s.dec.dfield) l s = true ∧
      checksPass (.decConsume s.dec.dfield) { l with ops := { l.ops with a0 := cv } } s = true ∧
      disturbed (.decConsumeSys s.dec.dfield) l s = false ∧
      disturbed (.decConsume s.dec.dfield) { l with ops := { l.ops with a0 := cv } } s = false ∧
      allMapped s.config [consumeVector s.dec { l with ops := { l.ops with a0 := cv } }] ∧
      pivAt s.dec l.ops.a0.toNat = true ∧ l.sysdup = true ∧
      ∀ j < s.dec.dn.toNat,
        elemAt s.dec.dfield s.memory (cv.toNat + j * s.dec.dfield.bytes) = if j = l.ops.a0.toNat then 1 else 0 :=
  ⟨inFlight { oneRow with ctrl := ⟨false, false, true⟩, memory := [(0x340, 1), (0x1000, 1), (0x1001, 2)] } 0x32 0 0x330
      0 0,
    ⟨0x32, ⟨0, 0x330, 0, 0⟩, false, true⟩, 0x340, rfl, by decide +kernel, by decide +kernel, by decide +kernel,
    by decide +kernel, tiny_mapped (by decide), rfl, rfl, by decide +kernel⟩

/-- An empty session meets INV, its Decoded rows (none) are unit rows, and it is consistent with any originals. -/
theorem session_rows (m : Memory) :
    MatrixInv session.dec m ∧ DecodedUnit session.dec m ∧ ∀ c x, Consistent c session.dec m x := by
  have hp := pivAt_replicate session.dec 4 (h := rfl)
  have hs := statAt_replicate session.dec 4 (h := rfl)
  refine ⟨⟨fun r _ h => absurd h (by simp [hp]), by decide +kernel⟩, fun r _ h => absurd h (by simp [hs]),
    fun c x r _ h => absurd h (by simp [hp])⟩

theorem firstPacket_succeeds : ∃ (t : State), exec (.decConsume .gf8) firstPacket = .next t ∧ t.status.err = false :=
  ⟨_, rfl, by decide +kernel⟩

theorem witness_SuccessfulDecoderCommandsKeepTheMatrixInvariant :
    ∃ (f : Field) (i : Instr) (s t : State) (l : Latched),
      s.config.wellFormed = true ∧ Memory.wf s.memory ∧ DecoderWf s.config s.dec ∧ s.eng = .busy l ∧
      disturbed i l s = false ∧ s.status.err = false ∧ exec i s = .next t ∧ t.status.err = false ∧
      i ∈ [.decConsume f, .decConsumeSys f, .decUpdateStatus f, .decQuery f] ∧ MatrixInv s.dec s.memory ∧
      DecodedUnit s.dec s.memory := by
  obtain ⟨t, ht, he⟩ := firstPacket_succeeds
  exact ⟨.gf8, .decConsume .gf8, firstPacket, t, latched 0x31 0x300 0x400 0 0, tiny_wellFormed, by decide +kernel,
    session_wf, rfl, by decide +kernel, rfl, ht, he, by decide, (session_rows _).1, (session_rows _).2.1⟩

/-- Originals that make the first packet of V-DEC-1 a true combination: X0 = 88 00, the others 0. -/
def firstOriginals (j k : Nat) : Nat := if j = 0 ∧ k = 0 then 0x88 else 0

theorem witness_ConsumingTruePairsKeepsTheRowsTrue :
    ∃ (i : Instr) (s t : State) (l : Latched) (x : Nat → Nat → Nat),
      s.config.wellFormed = true ∧ Memory.wf s.memory ∧ DecoderWf s.config s.dec ∧
      (∀ j k, x j k < 2 ^ s.dec.dfield.width) ∧ s.eng = .busy l ∧ disturbed i l s = false ∧ s.status.err = false ∧
      Consistent s.config s.dec s.memory x ∧ i = .decConsume s.dec.dfield ∧
      (∀ k < symElems s.dec, elemAt s.dec.dfield s.memory (l.ops.a1.toNat + k * s.dec.dfield.bytes) =
        gfSum (fun j => gfMul s.config s.dec.dfield
          (elemAt s.dec.dfield s.memory (l.ops.a0.toNat + j * s.dec.dfield.bytes)) (x j k)) s.dec.dn.toNat) ∧
      exec i s = .next t ∧ t.status.err = false := by
  obtain ⟨t, ht, he⟩ := firstPacket_succeeds
  refine ⟨.decConsume .gf8, firstPacket, t, latched 0x31 0x300 0x400 0 0, firstOriginals, tiny_wellFormed,
    by decide +kernel, session_wf, fun j k => ?_, rfl, by decide +kernel, rfl, (session_rows _).2.2 _ _, rfl,
    by decide +kernel, ht, he⟩
  show firstOriginals j k < 2 ^ 8
  unfold firstOriginals
  split <;> decide

/-- A complete generation of one symbol. -/
def single : Decoder :=
  { init := true, dep := false, dfield := .gf8, dn := 1, ds := 1, dcoef := 0x10, dsym := 0x20, rank := 1,
    cntMiss := 0, cntPart := 0, cntDec := 1, piv := [true], stat := [.decoded] }

theorem witness_FullRankHoldsTheOriginals :
    ∃ (c : Config) (d : Decoder) (m : Memory) (x : Nat → Nat → Nat),
      Config.wellFormed c = true ∧ DecoderCounts c d ∧ MatrixInv d m ∧ Consistent c d m x ∧
      (∀ j k, x j k < 2 ^ d.dfield.width) ∧ d.rank = d.dn := by
  have hsucc : ∀ r, pivAt single (r + 1) = false ∧ statAt single (r + 1) = .missing := fun r => ⟨rfl, rfl⟩
  refine ⟨{ tiny with nmax := 1 }, single, [(0x10, 1), (0x20, 7)], fun _ _ => 7, by decide +kernel,
    ⟨rfl, rfl, by decide, fun r => ?_, fun r h => ?_, by decide +kernel, by decide +kernel, by decide +kernel,
      by decide +kernel⟩,
    ⟨by decide +kernel, by decide +kernel⟩, by unfold Consistent; decide +kernel, fun _ _ => by show 7 < 2 ^ 8; decide, rfl⟩
  · cases r with
    | zero => decide
    | succ r => simp [hsucc r]
  · cases r with
    | zero => exact absurd h (by decide)
    | succ r => exact (hsucc r).1

theorem witness_RankAndStatusOnlyGrow :
    ∃ (i : Instr) (s t : State), (∀ f, i ≠ .decInit f) ∧ DecoderWf s.config s.dec ∧ exec i s = .next t :=
  ⟨.nop, session, session, fun _ => by simp, session_wf, rfl⟩

theorem witness_ErrorsArePrecise :
    ∃ (i : Instr) (s t : State) (l : Latched),
      s.eng = .busy l ∧ disturbed i l s = false ∧ s.status.err = false ∧ exec i s = .next t ∧
      t.status.err = true ∧ t.status.errCode ≠ 0x0B :=
  ⟨.gfInv .gf8, inFlight base 4 0 0 0 0, _, latched 4 0 0 0 0, rfl, by decide +kernel, rfl, rfl, by decide +kernel,
    by decide +kernel⟩

/-- The command meets the hypotheses of the clause about when ERR_BUS is raised, at the byte `a`. -/
def certainBusError (i : Instr) (s : State) (l : Latched) (a : Nat) : Prop :=
  s.eng = .busy l ∧ checksPass i l s = true ∧ regionsHave (certainAccesses i l s.dec) a = true ∧
    memOk s.config a = false

/-- A state with the one byte `a` outside MEM_OK. -/
def without (s : State) (a : Nat) : State :=
  { s with config := { s.config with backed := [⟨0, a⟩, ⟨a + 1, 2 ^ 32⟩] } }

/-- For each kind of command, the last byte of a certain access: dst with s = 0, src with s = 1, out, the mask, the vector,
the systematic symbol, a row of its, a PartiallyDecoded row. -/
theorem witness_BusErrorLeavesItsBytesFree_when :
    certainBusError (.rowScale .gf8) (inFlight (without base 0x83) 0x11 0x80 0 4 0) (latched 0x11 0x80 0 4 0) 0x83 ∧
      certainBusError (.rowAxpy .gf8) (inFlight (without base 0x13) 0x10 0x80 0x10 4 1)
        (latched 0x10 0x80 0x10 4 1) 0x13 ∧
      certainBusError (.genFill .gf16) (inFlight (without base 0x83) 0x122 0x80 2 0 0)
        (latched 0x122 0x80 2 0 0) 0x83 ∧
      certainBusError (.genFillPartial .gf8) (inFlight (without base 0x101) 0x23 0 9 0x100 0)
        (latched 0x23 0 9 0x100 0) 0x101 ∧
      certainBusError (.decConsume .gf8) (inFlight (without session 0x302) 0x31 0x300 0x400 0 0)
        (latched 0x31 0x300 0x400 0 0) 0x302 ∧
      certainBusError (.decConsumeSys .gf8) (inFlight (without session 0x401) 0x32 2 0x400 0 0)
        (latched 0x32 2 0x400 0 0) 0x401 ∧
      certainBusError (.decConsumeSys .gf8) (inFlight (without session 0x2005) 0x32 2 0x400 0 0)
        (latched 0x32 2 0x400 0 0) 0x2005 ∧
      certainBusError (.decUpdateStatus .gf8) (inFlight (without oneRow 0x1002) 0x33 0 0 0 0)
        (latched 0x33 0 0 0 0) 0x1002 := by
  refine ⟨?_, ?_, ?_, ?_, ?_, ?_, ?_, ?_⟩ <;> exact ⟨rfl, by decide +kernel, by decide +kernel, by decide +kernel⟩

theorem witness_BusErrorLeavesItsBytesFree :
    ∃ (i : Instr) (s t : State) (l : Latched),
      Memory.wf s.memory ∧ s.eng = .busy l ∧ s.status.err = false ∧ exec i s = .next t ∧
      t.status.err = true ∧ t.status.errCode = 0x0B ∧ regionsHave (writeBuffers i l s.dec) 0x80 = true :=
  ⟨.rowScale .gf8, inFlight { base with config := { tiny with backed := [] } } 0x11 0x80 0 1 1, _,
    latched 0x11 0x80 0 1 1, by decide, rfl, rfl, rfl, by decide +kernel, by decide +kernel, by decide⟩

/-- Its hypotheses contain those of EngineWritesOnlyItsBuffers. -/
theorem witness_EngineReadsOnlyItsBuffers :
    ∃ (i : Instr) (s t : State) (l : Latched) (m : Memory), Memory.wf s.memory ∧ Memory.wf m ∧ s.eng = .busy l ∧
      (∀ a, regionsHave (readBuffers i l s.dec ++ writeBuffers i l s.dec) a = true →
        Memory.read m a = Memory.read s.memory a) ∧ m ≠ s.memory ∧ exec i s = .next t := by
  refine ⟨.rowScale .gf8, inFlight base 0x11 0x80 0 1 1, _, latched 0x11 0x80 0 1 1, [(0x90, 1)], by decide, by decide,
    rfl, fun a ha => ?_, by decide, rfl⟩
  simp [regionsHave, regionHas, readBuffers, writeBuffers, rowDst, latched] at ha
  have h1 : a = 0x80 := by omega
  subst h1
  decide

/-- The four statements of the form 'every step keeps …', their hypotheses together. -/
theorem witness_every_step_invariants :
    ∃ (s t : State),
      Memory.wf s.memory ∧ DecoderWf s.config s.dec ∧ GeneratorWf s.gen ∧ ControlWf s ∧
        CountsZeroWithoutSession s.dec ∧ step s = .next t := by
  refine ⟨session, session, by decide, session_wf, ⟨by decide, by decide, by decide⟩,
    ⟨fun _ => rfl, fun h => absurd h (by decide), fun l h => ?_, fun _ => rfl, fun h => absurd h (by decide)⟩,
    fun h => absurd h (by decide), rfl⟩
  exact absurd h (by simp [session, base, State.reset])

/-- The reset input changes while a GEN_FILL is in flight: 0x83 is its last byte. -/
theorem witness_HardwareResetGivesTheResetValues :
    ∃ (s : State) (rest : List Input) (b : Bool), s.inputs = .resetPin b :: rest ∧ Memory.wf s.memory ∧
      regionsHave (writesInFlight s) 0x83 = true ∧ regionsHave (writesInFlight s) 0x84 = false :=
  ⟨given (inFlight base 0x22 0x80 4 0 0) (.resetPin true), [], true, rfl, by decide, by decide +kernel,
    by decide +kernel⟩

/-- A soft reset written while a GEN_FILL is in flight. -/
theorem witness_SoftResetAbortsAndResets :
    ∃ (s : State) (rest : List Input) (v : Word),
      Memory.wf s.memory ∧ s.inputs = .regWrite (s.config.regBase + 0x08) 4 v :: rest ∧
      s.config.regBase % 256 = 0 ∧ s.inReset = false ∧ v.toNat.testBit 31 = true ∧
      regionsHave (writesInFlight s) 0x83 = true ∧ regionsHave (writesInFlight s) 0x84 = false :=
  ⟨given (inFlight base 0x22 0x80 4 0 0) (.regWrite 0x08 4 0x80000006), [], 0x80000006, by decide, rfl, rfl, rfl,
    by decide, by decide +kernel, by decide +kernel⟩

theorem witness_AssertedResetSilencesThePort :
    ∃ (s : State) (rest : List Input) (off : Nat) (v : Word),
      s.inReset = true ∧ s.config.regBase % 256 = 0 ∧ off < 256 ∧ off % 4 = 0 ∧
      s.inputs = .regWrite (s.config.regBase + off) 4 v :: rest :=
  ⟨given { base with inReset := true } (.regWrite 0xFC 4 7), [], 0xFC, 7, rfl, rfl, by decide, by decide, rfl⟩

theorem witness_RegisterReadsReturnTheMap :
    ∃ (s : State) (rest : List Input), s.inputs = .regRead (s.config.regBase + 0xFC) 4 :: rest ∧
      s.config.regBase % 256 = 0 ∧ s.inReset = false :=
  ⟨given base (.regRead 0xFC 4), [], rfl, rfl, rfl⟩

/-- Both register-write statements: CTRL, and STATUS. -/
theorem witness_register_writes :
    (∃ (s : State) (rest : List Input) (v : Word),
      s.inputs = .regWrite (s.config.regBase + 0x08) 4 v :: rest ∧ s.config.regBase % 256 = 0 ∧
      s.inReset = false ∧ v.getLsbD 31 = false) ∧
    ∃ (s : State) (rest : List Input) (v : Word),
      s.inputs = .regWrite (s.config.regBase + 0x0C) 4 v :: rest ∧ s.config.regBase % 256 = 0 ∧
      s.inReset = false :=
  ⟨⟨given base (.regWrite 0x08 4 0x7FFFFFFF), [], 0x7FFFFFFF, rfl, rfl, rfl, by decide⟩,
   ⟨given base (.regWrite 0x0C 4 0x0E), [], 0x0E, rfl, rfl, rfl⟩⟩

theorem witness_OnlyAlignedWordAccessesAreAdmitted :
    (∃ (s : State) (rest : List Input) (addr size : Nat),
      s.inputs = .regRead addr size :: rest ∧ inWindow s.config addr = true ∧ addr % 4 ≠ 0) ∧
    (∃ (s : State) (rest : List Input) (addr size : Nat),
      s.inputs = .regRead addr size :: rest ∧ inWindow s.config addr = false) ∧
    ∃ (s : State) (rest : List Input) (addr size : Nat),
      s.inputs = .regRead addr size :: rest ∧ inWindow s.config addr = true ∧ size = 4 ∧
      addr % 4 = 0 :=
  ⟨⟨given base (.regRead 0xFD 4), [], 0xFD, 4, rfl, by decide, by decide⟩,
   ⟨given base (.regRead 0x100 4), [], 0x100, 4, rfl, by decide⟩,
   ⟨given base (.regRead 0xFC 4), [], 0xFC, 4, rfl, by decide, rfl, by decide⟩⟩

theorem witness_RacedBytesAreFree :
    (∃ (s : State) (rest : List Input) (a : Nat) (b : Byte),
      s.inputs = .memWrite a b :: rest ∧ inputAdmitted s.config (.memWrite a b) = true ∧
      regionsHave (touchesInFlight s) a = true) ∧
    (∃ (s : State) (rest : List Input) (a : Nat),
      s.inputs = .memRead a :: rest ∧ inputAdmitted s.config (.memRead a) = true ∧
      regionsHave (writesInFlight s) a = true) ∧
    (∃ (i : Instr) (s t : State) (l : Latched),
      Memory.wf s.memory ∧ s.eng = .busy l ∧ checksPass i l s = true ∧ s.raced = true ∧ exec i s = .next t) ∧
    ∃ (i : Instr) (s t : State) (l : Latched) (b : Nat),
      Memory.wf s.memory ∧ s.eng = .busy l ∧ checksPass i l s = true ∧ s.raced = false ∧
      regionsHave (readBuffers i l s.dec ++ writeBuffers i l s.dec) b = true ∧
      regionsHave s.config.devices b = true ∧ exec i s = .next t :=
  ⟨⟨given (inFlight base 0x10 0x80 0x90 1 1) (.memWrite 0x90 7), [], 0x90, 7, rfl, by decide +kernel, by decide +kernel⟩,
   ⟨given (inFlight base 0x10 0x80 0x90 1 1) (.memRead 0x80), [], 0x80, rfl, by decide +kernel, by decide +kernel⟩,
   ⟨.rowAxpy .gf8, { inFlight base 0x10 0x80 0x90 1 1 with raced := true }, _, latched 0x10 0x80 0x90 1 1, by decide,
     rfl, by decide +kernel, rfl, rfl⟩,
   ⟨.rowAxpy .gf8, inFlight { base with config := { tiny with devices := [⟨0x91, 4⟩] } } 0x10 0x80 0x90 2 1, _,
     latched 0x10 0x80 0x90 2 1, 0x91, by decide, rfl, by decide +kernel, rfl, by decide, by decide, rfl⟩⟩

theorem witness_EveryAcceptedCommandCompletes :
    ∃ (s : State) (l : Latched),
      s.eng = .busy l ∧ s.inReset = false ∧
      (∀ i ∈ s.inputs, inputAdmitted s.config i = true ∧ resetsBlock s.config i = false) ∧ s.inputs ≠ [] :=
  ⟨given (inFlight base 0x10 0x80 0x90 1 1) (.regWrite 0x08 4 0x7FFFFFFF), latched 0x10 0x80 0x90 1 1, rfl, rfl,
    by decide +kernel, by decide⟩

/-! ### Runs (44_engine_control.md R238) -/

/-- A program with a line left has not ended, even where the engine is idle. -/
theorem test_run_with_a_line_left_has_not_ended (t : State) : ¬cleanRun 0 (given base (.regRead 0x00 4)) t := by
  rintro ⟨⟨rfl, h, -⟩, -⟩
  exact absurd h (by decide)

/-- An error of before the run that the run's one line acknowledges does not spoil it. -/
theorem test_run_that_acknowledges_an_earlier_error_is_clean :
    ∃ t, cleanRun 1 (given { base with status := ⟨true, true, false, 1⟩ } (.regWrite 0x0C 4 0x0E)) t := by
  have h : step (given { base with status := ⟨true, true, false, 1⟩ } (.regWrite 0x0C 4 0x0E)) = .next base := rfl
  exact ⟨base, ⟨⟨base, h, rfl⟩, rfl, rfl⟩, ⟨base, h, by decide +kernel, rfl⟩, rfl, rfl⟩

/-- A run in which a command ends with an error is not clean. -/
theorem test_run_with_a_failed_command_is_not_clean (t : State) : ¬cleanRun 1 (inFlight base 0x005 0 0 0 0) t := by
  rintro ⟨-, ⟨u, h, hf, -⟩, -⟩
  have hs : step (inFlight base 0x005 0 0 0 0) = .next (after (inFlight base 0x005 0 0 0 0)) := rfl
  rw [hs] at h
  cases h
  exact absurd hf (by decide +kernel)

end Sys2Proof.Tests
end

/-! PROOFS. A write of a register through the port, what a STATUS write clears, and that every command in flight ends with
DONE set (10_state.md R31, 44_engine_control.md R233, R236). -/

namespace Sys2Proof.Machine

/-- An aligned 32-bit access at an offset of the register window is given its step (10_state.md R21). -/
theorem portAccess_of_offset {s : State} {off : Nat} (hbase : s.config.regBase % 256 = 0) (hoff : off < 256)
    (halign : off % 4 = 0) (t : State) : portAccess s (s.config.regBase + off) 4 t = .next t := by
  have hwin : inWindow s.config (s.config.regBase + off) = true := by simp [inWindow, hoff]
  have hport : portAligned (s.config.regBase + off) 4 = true := by
    simp only [portAligned, Bool.and_eq_true, decide_eq_true_eq, true_and]
    omega
  simp [portAccess, hwin, hport]

/-- A pending write of a register, outside of reset, writes it and returns no data (44_engine_control.md R236). -/
theorem step_of_regWrite {s : State} {rest : List Input} {off : Nat} {v : Word}
    (hin : s.inputs = .regWrite (s.config.regBase + off) 4 v :: rest) (hbase : s.config.regBase % 256 = 0)
    (hoff : off < 256) (halign : off % 4 = 0) (hreset : s.inReset = false) :
    step s = .next { writeReg off v { s with inputs := rest } with hostData := none } := by
  have hturn : step s = hostRegWrite (s.config.regBase + off) 4 v { s with inputs := rest } := by
    simp only [step, advance, hin, inputStep]
  rw [hturn, hostRegWrite, portAccess_of_offset (s := { s with inputs := rest }) hbase hoff halign]
  simp only [hreset, Bool.false_eq_true, if_false, Nat.add_sub_cancel_left]

/-- Bits 1, 2 and 3 of a STATUS write each clear their own part of STATUS, and nothing else changes (10_state.md R31). -/
theorem writeStatus_eq (v : Word) (s : State) :
    writeStatus v s = { s with
      status :=
        { done := s.status.done && !v.getLsbD 1
          err := s.status.err && !v.getLsbD 2
          errCode := if v.getLsbD 2 then 0 else s.status.errCode
          cmdLost := s.status.cmdLost && !v.getLsbD 3 } } := by
  unfold writeStatus
  simp only [BitVec.testBit_toNat]
  cases v.getLsbD 1 <;> cases v.getLsbD 2 <;> cases v.getLsbD 3 <;> simp [acknowledgeError]

/-- Every command is its body run between its checks and its end (44_engine_control.md R233). -/
theorem exec_eq_runCommand (i : Instr) (s : State) : ∃ body, exec i s = runCommand i s body := by
  cases i <;> exact ⟨_, rfl⟩

/-- However a command in flight ends, DONE is set and the engine is idle (44_engine_control.md R233, 60_exceptions.md
R244). -/
theorem runCommand_ends {i : Instr} {s t : State} {l : Latched} {body : Latched → Except ErrorCode State}
    (hl : s.eng = .busy l) (h : runCommand i s body = .next t) : t.status.done = true ∧ t.eng = .idle := by
  obtain ⟨e, -, rfl⟩ | ⟨-, e, -, -, rfl⟩ | ⟨-, -, rfl⟩ | ⟨-, u, -, rfl⟩ := runCommand_cases hl h <;>
    exact ⟨rfl, rfl⟩

/-- Settles O56: the port gives the write to STATUS, whose bits clear by writing 1; and every end of a command sets
DONE. -/
theorem statusWriteClearsByWritingOne : Obligations.StatusWriteClearsByWritingOne := by
  constructor
  · intro s rest v hin hbase hreset
    rw [step_of_regWrite hin hbase (by decide) (by decide) hreset]
    have hreg : ∀ t, writeReg 0x0C v t = writeStatus v t := fun _ => rfl
    rw [hreg, writeStatus_eq]
  · intro i s l hl
    obtain ⟨body, hbody⟩ := exec_eq_runCommand i s
    obtain ⟨t, ht⟩ := runCommand_next i s body
    exact ⟨t, hbody.trans ht, runCommand_ends hl ht⟩

end Sys2Proof.Machine

/-! PROOFS. Which words the decoder takes, in field form and in match/mask form, and what the command it gives says of
its word (30_encoding.md R91, R93, R94). -/

namespace Sys2Proof.Machine

/-- Every command's word is legal, has RSV = 0 and carries the command's field in F (R91, R94). -/
theorem encodesLegally : ∀ i : Instr, Laws.EncodesLegally.Statement i
  | .nop => Laws.EncodesLegally.nop
  | .gfAdd f => Laws.EncodesLegally.gfAdd f
  | .gfMul f => Laws.EncodesLegally.gfMul f
  | .gfDiv f => Laws.EncodesLegally.gfDiv f
  | .gfInv f => Laws.EncodesLegally.gfInv f
  | .rowAxpy f => Laws.EncodesLegally.rowAxpy f
  | .rowScale f => Laws.EncodesLegally.rowScale f
  | .genSeed => Laws.EncodesLegally.genSeed
  | .genDensity => Laws.EncodesLegally.genDensity
  | .genFill f => Laws.EncodesLegally.genFill f
  | .genFillPartial f => Laws.EncodesLegally.genFillPartial f
  | .decInit f => Laws.EncodesLegally.decInit f
  | .decConsume f => Laws.EncodesLegally.decConsume f
  | .decConsumeSys f => Laws.EncodesLegally.decConsumeSys f
  | .decUpdateStatus f => Laws.EncodesLegally.decUpdateStatus f
  | .decQuery f => Laws.EncodesLegally.decQuery f

/-- A word with clear reserved bits is made of its opcode and its field (R91). -/
theorem commandWord_wordOp_wordF {w : Word} (hrsv : wordRsv w = 0) :
    commandWord (wordOp w) (fieldOfBit (wordF w)) = w := by
  have hhigh : w.toNat / 512 = 0 := hrsv
  have hbit : wordF w = decide (w.toNat / 256 % 2 = 1) := Nat.testBit_eq_decide_div_mod_eq
  apply BitVec.eq_of_toNat_eq
  rw [hbit]
  by_cases hF : w.toNat / 256 % 2 = 1 <;>
    simp only [hF, decide_true, decide_false, fieldOfBit, commandWord, wordOp, BitVec.toNat_ofNat] <;> omega

/-- The command the map selects is written with the opcode and the bit F that select it (R93). -/
theorem encode_of_selectCommand {op : Nat} {f : Bool} {i : Instr} (h : selectCommand op f = some i) :
    encode i = commandWord op (fieldOfBit f) := by
  unfold selectCommand withoutField at h
  split at h <;> cases f <;> cases h <;> rfl

/-- A word that decodes is the word of the command it decodes to (R93). -/
theorem encode_of_decode {w : Word} {i : Instr} (h : decode w = some i) : encode i = w := by
  obtain ⟨hrsv, hsel⟩ : wordRsv w = 0 ∧ selectCommand (wordOp w) (wordF w) = some i := by simpa [decode] using h
  rw [encode_of_selectCommand hsel, commandWord_wordOp_wordF hrsv]

/-- An opcode and a bit F select a command exactly when the opcode is one of the sixteen, with F = 0 for the three
commands without a field (R94). -/
theorem selectCommand_isSome_iff (op : Nat) (f : Bool) :
    (selectCommand op f).isSome = true ↔
      op ∈ [0x00, 0x01, 0x02, 0x03, 0x04, 0x10, 0x11, 0x20, 0x21, 0x22, 0x23, 0x30, 0x31, 0x32, 0x33, 0x34] ∧
        (op ∈ [0x00, 0x20, 0x21] → f = false) := by
  unfold selectCommand withoutField
  -- One case for each listed opcode, and one for the reserved ones.
  split <;> simp_all

/-- The decoder takes a word exactly when its reserved bits are 0 and its opcode and F select a command (R94). -/
theorem decode_isSome_iff (w : Word) :
    (decode w).isSome = true ↔ wordRsv w = 0 ∧ (selectCommand (wordOp w) (wordF w)).isSome = true := by
  unfold decode
  split <;> simp_all

/-- A word is what a mask without bit 8 leaves of it, bit 8 put back or not. -/
theorem eq_or_eq_or_of_and_mask_eq {w p : Word} (h : w &&& 0xFFFFFEFF = p) : w = p ∨ w = p ||| 256 := by
  have hw : w = p ||| (w &&& BitVec.twoPow 32 8) := by
    rw [← h, ← BitVec.and_or_distrib_left]
    exact BitVec.and_allOnes.symm
  rw [BitVec.and_twoPow] at hw
  split at hw
  · exact .inr hw
  · exact .inl (hw.trans BitVec.or_zero)

/-- Every row's pattern decodes. A row fixes all 32 bits, or leaves F free and its pattern decodes with F = 1 too. -/
theorem opcodeTable_rows_decode :
    ∀ r ∈ opcodeTable, (decode r.pattern).isSome = true ∧
      (r.mask = BitVec.allOnes 32 ∨ r.mask = 0xFFFFFEFF ∧ (decode (r.pattern ||| 256)).isSome = true) := by
  decide

/-- The match/mask form of the opcode map names the words the decoder takes (R94). -/
theorem decode_isSome_eq_legalWord (w : Word) : (decode w).isSome = legalWord w := by
  rw [Bool.eq_iff_iff]
  constructor
  · intro hsome
    obtain ⟨i, hi⟩ := Option.isSome_iff_exists.1 hsome
    obtain ⟨-, hlegal, -, -⟩ := encodesLegally i
    rwa [encode_of_decode hi] at hlegal
  · intro hlegal
    obtain ⟨r, hr, hcov⟩ := List.any_eq_true.1 hlegal
    have hmatch : w &&& r.mask = r.pattern := beq_iff_eq.1 hcov
    obtain ⟨hpat, hmask | ⟨hmask, hpatF⟩⟩ := opcodeTable_rows_decode r hr
    · rw [hmask, BitVec.and_allOnes] at hmatch
      rwa [hmatch]
    · rw [hmask] at hmatch
      obtain rfl | rfl := eq_or_eq_or_of_and_mask_eq hmatch
      · exact hpat
      · exact hpatF

/-- Bit 8 of the word of a command with a field is the field's bit F (R91). -/
theorem wordF_encode {i : Instr} {f : Field} (h : i.fieldOf = some f) : wordF (encode i) = fieldBit f := by
  obtain ⟨-, -, -, hF⟩ := encodesLegally i
  rw [hF, h]
  cases f <;> rfl

/-- The opcode of a command word (R91). -/
theorem wordOp_commandWord {op : Nat} (hop : op < 256) (f : Field) : wordOp (commandWord op f) = op := by
  cases f <;> simp only [wordOp, commandWord, BitVec.toNat_ofNat] <;> omega

/-- Settles O3: the field form by the opcode map's cases, the match/mask form by the rows of the table, and what a
decoded command says of its word from `encode_of_decode`. -/
theorem decoderAcceptsExactlyTheOpcodeMap : Obligations.DecoderAcceptsExactlyTheOpcodeMap := by
  intro w
  refine ⟨?_, decode_isSome_eq_legalWord w, ?_, ?_⟩
  · rw [decode_isSome_iff, selectCommand_isSome_iff]
    exact and_left_comm
  · intro i f hi hf
    rw [← wordF_encode hf, encode_of_decode hi, wordF]
  · intro i hi
    rw [← encode_of_decode hi]
    cases i <;> exact wordOp_commandWord (by decide) _

end Sys2Proof.Machine

/-! PROOFS. The finite-field commands: which check stops one, and the state that one ends in (40_gf_arith.md
R116-R119). -/

namespace Sys2Proof.Machine

/-- A command that writes no byte of memory leaves none to disturb (20_memory.md R67, R73). -/
theorem disturb_of_writes_none {i : Instr} {l : Latched} {s : State} (h : writeBuffers i l s.dec = []) (t : State) :
    disturb i l s t = t := by
  have hwrites : writesOf i l s = [] := by simp only [writesOf, h, ite_self]
  simp only [disturb, hwrites, havoc_nil, ite_self]

/-- The first check that fails ends a command in flight with its error (60_exceptions.md R243, R244). -/
theorem runCommand_of_firstError_some {i : Instr} {s : State} {l : Latched} {e : ErrorCode}
    (hl : s.eng = .busy l) (hcheck : firstError (checks i l s) = some e)
    (body : Latched → Except ErrorCode State) : runCommand i s body = .next (failed e.code l s) := by
  obtain ⟨t, ht⟩ := runCommand_next i s body
  obtain ⟨e', he', rfl⟩ | ⟨hnone, -⟩ | ⟨hnone, -⟩ | ⟨hnone, -⟩ := runCommand_cases hl ht
  · obtain rfl : e = e' := Option.some.inj (hcheck.symm.trans he')
    exact ht
  all_goals exact absurd (hcheck.symm.trans hnone) (Option.some_ne_none e)

/-- A command in flight whose checks hold and whose body succeeds completes (44_engine_control.md R233). -/
theorem runCommand_of_body_ok {i : Instr} {s t : State} {l : Latched} {body : Latched → Except ErrorCode State}
    (hl : s.eng = .busy l) (hcheck : firstError (checks i l s) = none) (hbody : body l = .ok t) :
    runCommand i s body = .next (finished (disturb i l s t)) := by
  simp only [runCommand, hl, hcheck, hbody]
  rfl

/-- A command that writes no memory and whose body cannot fail: it ends with its first failing check, or completes. -/
theorem runCommand_of_writes_none {i : Instr} {s t : State} {l : Latched} {body : Latched → Except ErrorCode State}
    (hl : s.eng = .busy l) (hwrites : writeBuffers i l s.dec = []) (hbody : body l = .ok t) :
    runCommand i s body =
      .next ((firstError (checks i l s)).elim (finished t) fun e => failed e.code l s) := by
  cases hcheck : firstError (checks i l s) with
  | some e => exact runCommand_of_firstError_some hl hcheck body
  | none => rw [runCommand_of_body_ok hl hcheck hbody, disturb_of_writes_none hwrites, Option.elim_none]

/-- An operand is outside the field when it is 2^w or more (30_encoding.md R92). -/
theorem elementOk_eq_false_iff (f : Field) (v : Word) : elementOk f v = false ↔ 2 ^ f.width ≤ v.toNat := by
  simp only [elementOk, decide_eq_false_iff_not, not_lt]

/-- The one check of GF_ADD and GF_MUL: both operands are in the field (R116, R117). -/
theorem firstError_gfBinaryChecks (f : Field) (l : Latched) :
    firstError (gfBinaryChecks f l) =
      if 2 ^ f.width ≤ l.ops.a0.toNat ∨ 2 ^ f.width ≤ l.ops.a1.toNat then some .range else none := by
  simp only [gfBinaryChecks, firstError, Bool.or_eq_true, Bool.not_eq_true', elementOk_eq_false_iff]

/-- GF_DIV checks its operands' range before its divisor (R118). -/
theorem firstError_gfDivChecks (f : Field) (l : Latched) :
    firstError (gfDivChecks f l) =
      if 2 ^ f.width ≤ l.ops.a0.toNat ∨ 2 ^ f.width ≤ l.ops.a1.toNat then some .range
      else if l.ops.a1 = 0 then some .div0 else none := by
  simp only [gfDivChecks, firstError, Bool.or_eq_true, Bool.not_eq_true', elementOk_eq_false_iff, decide_eq_true_eq,
    BitVec.toNat_eq, BitVec.ofNat_eq_ofNat, BitVec.toNat_zero]

/-- GF_INV checks its operand's range before that it is not 0 (R119). -/
theorem firstError_gfInvChecks (f : Field) (l : Latched) :
    firstError (gfInvChecks f l) =
      if 2 ^ f.width ≤ l.ops.a0.toNat then some .range else if l.ops.a0 = 0 then some .div0 else none := by
  simp only [gfInvChecks, firstError, Bool.not_eq_true', elementOk_eq_false_iff, decide_eq_true_eq,
    BitVec.toNat_eq, BitVec.ofNat_eq_ofNat, BitVec.toNat_zero]

/-- The sum of two words as field elements is their exclusive OR (R111). -/
theorem ofNat_gfAdd_toNat (a b : Word) : BitVec.ofNat 32 (gfAdd a.toNat b.toNat) = a ^^^ b := by
  rw [gfAdd, ← BitVec.toNat_xor, BitVec.ofNat_toNat, BitVec.setWidth_eq]

/-- Settles O10: the range check is the only one, and RES gets the sum, an exclusive OR. -/
theorem gfAddWritesTheSum : Obligations.GfAddWritesTheSum := by
  intro f s l hl
  have hrun : exec (.gfAdd f) s = _ := runCommand_of_writes_none hl rfl rfl
  rw [hrun, checks, firstError_gfBinaryChecks, withRes, ofNat_gfAdd_toNat]
  split <;> rfl

/-- Settles O11: the range check is the only one, and RES gets the product. -/
theorem gfMulWritesTheProduct : Obligations.GfMulWritesTheProduct := by
  intro f s l hl
  have hrun : exec (.gfMul f) s = _ := runCommand_of_writes_none hl rfl rfl
  rw [hrun, checks, firstError_gfBinaryChecks]
  split <;> rfl

/-- Settles O12: the range check, then the zero divisor, then RES gets the quotient, which `gfDiv` defines as a times the
inverse of b. -/
theorem gfDivWritesTheQuotient : Obligations.GfDivWritesTheQuotient := by
  intro f s l hl
  have hrun : exec (.gfDiv f) s = _ := runCommand_of_writes_none hl rfl rfl
  rw [hrun, checks, firstError_gfDivChecks]
  split
  · rfl
  · split <;> rfl

/-- Settles O13: the range check, then the zero operand, then RES gets the inverse. -/
theorem gfInvWritesTheInverse : Obligations.GfInvWritesTheInverse := by
  intro f s l hl
  have hrun : exec (.gfInv f) s = _ := runCommand_of_writes_none hl rfl rfl
  rw [hrun, checks, firstError_gfInvChecks]
  split
  · rfl
  · split <;> rfl

end Sys2Proof.Machine

/-! PROOFS. Seeding the coefficient generator and setting its density (42_coeff_generator.md R165, R166). -/

namespace Sys2Proof.Machine

/-- Only the word 0x20 is GEN_SEED: a word that decodes is the word of its command (30_encoding.md R93, R94). -/
theorem decode_eq_genSeed_iff (w : Word) : decode w = some .genSeed ↔ w = 0x00000020 := by
  constructor
  · intro h
    exact (encode_of_decode h).symm
  · rintro rfl
    decide

/-- The complement of the seed is its exclusive OR with all ones (R161). -/
theorem seedState_eq (seed : Word) : seedState seed = seed ++ (seed ^^^ 0xFFFFFFFF) := by
  have hcompl : seed ^^^ 0xFFFFFFFF = ~~~seed := BitVec.xor_allOnes
  rw [hcompl, seedState]

/-- The one check of GEN_DENSITY: the density's word is at least 1 and at most that of 1.0 (R166). -/
theorem firstError_genDensityChecks (l : Latched) :
    firstError (genDensityChecks l) =
      if 1 ≤ l.ops.a0.toNat ∧ l.ops.a0.toNat ≤ 0x3F800000 then none else some .density := by
  have hok : densityOk l.ops.a0 = true ↔ 1 ≤ l.ops.a0.toNat ∧ l.ops.a0.toNat ≤ 0x3F800000 := by
    simp only [densityOk, Bool.and_eq_true, decide_eq_true_eq]
  simp only [genDensityChecks, firstError, Bool.not_eq_true', ← Bool.not_eq_true, hok, ite_not]

/-- Settles O20: the decoder's one word for GEN_SEED, which has no check and loads the seed state. -/
theorem genSeedLoadsTheSeedState : Obligations.GenSeedLoadsTheSeedState := by
  refine ⟨decode_eq_genSeed_iff, ?_⟩
  intro s l hl
  have hrun : exec .genSeed s = _ := runCommand_of_writes_none hl rfl rfl
  rw [hrun, seedState_eq]
  rfl

/-- Settles O21: the density check is the only one, and the density is set with its threshold. -/
theorem genDensitySetsTheThreshold : Obligations.GenDensitySetsTheThreshold := by
  intro s l hl
  have hrun : exec .genDensity s = _ := runCommand_of_writes_none hl rfl rfl
  rw [hrun, checks, firstError_genDensityChecks]
  split <;> rfl

end Sys2Proof.Machine

/-! PROOFS. The pivot engine's commands that access no memory, and the checks its session commands share
(43_pivot_engine.md R197, R198, R202). -/

namespace Sys2Proof.Machine

/-- A list of checks fails where its first part fails, and else where the rest does (60_exceptions.md R243). -/
theorem firstError_append (xs ys : List (Bool × ErrorCode)) :
    firstError (xs ++ ys) = (firstError xs).or (firstError ys) := by
  induction xs with
  | nil => rfl
  | cons x rest ih =>
    simp only [List.cons_append, firstError, ih]
    split <;> rfl

/-- A region is out of range when it ends past 2^32 (00_scope.md R9). -/
theorem inRange_eq_false_iff (r : Region) : inRange r = false ↔ 2 ^ 32 < r.base + r.len := by
  simp only [inRange, decide_eq_false_iff_not, not_le]

/-- A number is no multiple of the element size when the size is 2, that of GF(2^16), and the number is odd
(00_scope.md R3). -/
theorem mod_bytes_ne_zero_iff (f : Field) (n : Nat) : n % f.bytes ≠ 0 ↔ f = .gf16 ∧ n % 2 = 1 := by
  cases f with
  | gf8 => simp only [Field.bytes, Nat.mod_one, ne_eq, not_true_eq_false, reduceCtorEq, false_and]
  | gf16 => simp only [Field.bytes, Nat.mod_two_ne_zero, true_and]

/-- An address is unaligned when the field is GF(2^16) and the address is odd (20_memory.md R64). -/
theorem addressAligned_eq_false_iff (f : Field) (a : Nat) :
    addressAligned f a = false ↔ f = .gf16 ∧ a % 2 = 1 := by
  rw [← mod_bytes_ne_zero_iff, addressAligned, decide_eq_false_iff_not]

/-- Two nonempty regions meet when each starts before the other's end (00_scope.md R9). -/
theorem regionsMeet_iff_of_nonempty {r q : Region} (hr : 0 < r.len) (hq : 0 < q.len) :
    regionsMeet r q = true ↔ r.base < q.base + q.len ∧ q.base < r.base + r.len := by
  simp only [regionsMeet, decide_eq_true_eq]
  omega

/-- The regions that a DEC_INIT with a nonzero N and S binds are not empty, so they meet when each starts before the
other's end (R197). -/
theorem initRegions_meet_iff (f : Field) {l : Latched} (hn : l.ops.a0.toNat ≠ 0) (hsz : l.ops.a1.toNat ≠ 0) :
    regionsMeet (initCoef f l) (initSym l) = true ↔
      l.ops.a2.toNat < l.ops.a3.toNat + l.ops.a0.toNat * l.ops.a1.toNat ∧
        l.ops.a3.toNat < l.ops.a2.toNat + l.ops.a0.toNat * l.ops.a0.toNat * f.bytes := by
  have hbytes : 0 < f.bytes := by cases f <;> decide
  have hn := Nat.pos_of_ne_zero hn
  exact regionsMeet_iff_of_nonempty (Nat.mul_pos (Nat.mul_pos hn hn) hbytes)
    (Nat.mul_pos hn (Nat.pos_of_ne_zero hsz))

/-- DEC_INIT checks N and S, then the range of its regions, their alignment, S as a length, and that the regions are
disjoint (R197). -/
theorem firstError_decInitChecks (c : Config) (f : Field) (l : Latched) :
    firstError (decInitChecks c f l) =
      if l.ops.a0.toNat = 0 ∨ c.nmax < l.ops.a0.toNat ∨ l.ops.a1.toNat = 0 then some .range
      else if 2 ^ 32 < l.ops.a2.toNat + l.ops.a0.toNat * l.ops.a0.toNat * f.bytes ∨
          2 ^ 32 < l.ops.a3.toNat + l.ops.a0.toNat * l.ops.a1.toNat then some .range
      else if f = .gf16 ∧ (l.ops.a2.toNat % 2 = 1 ∨ l.ops.a3.toNat % 2 = 1) then some .align
      else if f = .gf16 ∧ l.ops.a1.toNat % 2 = 1 then some .len
      else if l.ops.a2.toNat < l.ops.a3.toNat + l.ops.a0.toNat * l.ops.a1.toNat ∧
          l.ops.a3.toNat < l.ops.a2.toNat + l.ops.a0.toNat * l.ops.a0.toNat * f.bytes then some .overlap
      else none := by
  simp only [decInitChecks, firstError, Bool.or_eq_true, Bool.not_eq_true', decide_eq_true_eq, or_assoc,
    inRange_eq_false_iff, addressAligned_eq_false_iff, mod_bytes_ne_zero_iff, ← and_or_left]
  split
  · rfl
  · next hparams =>
    obtain ⟨hn, -, hsz⟩ := (not_or.1 hparams).imp_right not_or.1
    simp only [initRegions_meet_iff f hn hsz]
    rfl

/-- Settles O26: DEC_INIT writes no memory, so it ends with its first failing check or binds its session. -/
theorem decInitBindsANewSession : Obligations.DecInitBindsANewSession := by
  intro f s l hl n sz cb sb
  have hrun : exec (.decInit f) s = _ := runCommand_of_writes_none hl rfl rfl
  rw [hrun, checks, firstError_decInitChecks]
  -- One branch per failing check, in order, then the new session.
  iterate 5 (split; · rfl)
  rfl

/-- The checks of R198: INIT, then the command's field against the session's. -/
theorem firstError_sessionChecks (f : Field) (d : Decoder) :
    firstError (sessionChecks f d) =
      if d.init = false then some .noInit else if f ≠ d.dfield then some .field else none := by
  simp only [sessionChecks, firstError, Bool.not_eq_true', decide_eq_true_eq]

/-- The four session commands make the checks of R198 before all others. -/
theorem checks_eq_sessionChecks_append {f : Field} {i : Instr}
    (hi : i ∈ [.decConsume f, .decConsumeSys f, .decUpdateStatus f, .decQuery f]) (l : Latched) (s : State) :
    ∃ rest, checks i l s = sessionChecks f s.dec ++ rest := by
  simp only [List.mem_cons, List.not_mem_nil, or_false] at hi
  obtain rfl | rfl | rfl | rfl := hi
  · exact ⟨_, rfl⟩
  · exact ⟨_, rfl⟩
  · exact ⟨[], (List.append_nil _).symm⟩
  · exact ⟨_, rfl⟩

/-- A session command that fails a check of R198 ends with its error, whatever its own checks say. -/
theorem exec_of_sessionChecks_fail {f : Field} {i : Instr} {s : State} {l : Latched} {e : ErrorCode}
    (hl : s.eng = .busy l) (hi : i ∈ [.decConsume f, .decConsumeSys f, .decUpdateStatus f, .decQuery f])
    (hfail : firstError (sessionChecks f s.dec) = some e) : exec i s = .next (failed e.code l s) := by
  obtain ⟨body, hbody⟩ := exec_eq_runCommand i s
  obtain ⟨rest, hrest⟩ := checks_eq_sessionChecks_append hi l s
  rw [hbody]
  refine runCommand_of_firstError_some hl ?_ body
  rw [hrest, firstError_append, hfail, Option.some_or]

/-- Settles O27: the checks of R198 stand before the others of every session command. -/
theorem sessionCommandsCheckInitThenField : Obligations.SessionCommandsCheckInitThenField := by
  intro f i s l hl hi
  constructor
  · intro hinit
    exact exec_of_sessionChecks_fail (e := .noInit) hl hi (by rw [firstError_sessionChecks, if_pos hinit])
  · intro hinit hfield
    refine exec_of_sessionChecks_fail (e := .field) hl hi ?_
    rw [firstError_sessionChecks, if_neg (ne_false_of_eq_true hinit), if_pos hfield]

/-- DEC_QUERY checks the session, the field, and its index against DN (R198, R202). -/
theorem firstError_decQueryChecks (f : Field) (d : Decoder) (l : Latched) :
    firstError (decQueryChecks f d l) =
      if d.init = false then some .noInit else if f ≠ d.dfield then some .field
      else if d.dn.toNat ≤ l.ops.a0.toNat then some .range else none := by
  simp only [decQueryChecks, firstError_append, firstError_sessionChecks, firstError, decide_eq_true_eq]
  split
  · rfl
  · split <;> rfl

/-- Settles O29: DEC_QUERY writes no memory, so it ends with its first failing check or with the status's code in
RES. -/
theorem decQueryReadsTheStatusCode : Obligations.DecQueryReadsTheStatusCode := by
  intro f s l hl
  have hrun : exec (.decQuery f) s = _ := runCommand_of_writes_none hl rfl rfl
  rw [hrun, checks, firstError_decQueryChecks, statAt]
  -- One branch per failing check, in order, then the query itself.
  iterate 3 (split; · rfl)
  cases s.dec.stat.getD l.ops.a0.toNat .missing <;> rfl

end Sys2Proof.Machine

/-! PROOFS. The refused command issue, and NOP (44_engine_control.md R230, R232). -/

namespace Sys2Proof.Machine

/-- While a command is in flight or ERR = 1, a word written to CMD is refused (44_engine_control.md R232). -/
theorem issue_of_busy_or_err {s : State} (h : isBusy s = true ∨ s.status.err = true) (w : Word) :
    issue w s = refuseCommand s :=
  if_pos (Bool.or_eq_true_iff.2 h)

/-- Settles O7: the port gives the word to `issue`, which refuses it. -/
theorem commandIssueIsRefusedWhileBusyOrErr : Obligations.CommandIssueIsRefusedWhileBusyOrErr := by
  intro s rest w hin hbase hreset hrefuse
  have hreg : ∀ t, writeReg 0x10 w t = issue w t := fun _ => rfl
  have hissue : issue w { s with inputs := rest } = refuseCommand { s with inputs := rest } :=
    issue_of_busy_or_err (s := { s with inputs := rest }) hrefuse w
  rw [step_of_regWrite hin hbase (by decide) (by decide) hreset, hreg, hissue, refuseCommand]

/-- Only the word 0 is NOP: a word that decodes is the word of its command (30_encoding.md R93, R94). -/
theorem decode_eq_nop_iff (w : Word) : decode w = some .nop ↔ w = 0x00000000 := by
  constructor
  · intro h
    exact (encode_of_decode h).symm
  · rintro rfl
    decide

/-- Settles O9: the decoder's one word for NOP, which has no check, writes no memory and leaves the state as it is. -/
theorem nopOnlyCompletes : Obligations.NopOnlyCompletes := by
  refine ⟨decode_eq_nop_iff, ?_⟩
  intro s l hl
  have hrun : exec .nop s = _ := runCommand_of_writes_none hl rfl rfl
  have hcheck : firstError (checks .nop l s) = none := rfl
  rw [hrun, hcheck, Option.elim_none]

end Sys2Proof.Machine

/-! PROOFS. Memory accesses, elements and loops that can end with a bus error: when each of them does (20_memory.md R62,
R66). -/

namespace Sys2Proof.Machine

/-! ### Mapped regions and elements -/

/-- Every byte of the region answers without an error (20_memory.md R66). -/
def regionMapped (c : Config) (r : Region) : Prop := ∀ a, regionHas r a = true → memOk c a = true

theorem regionHas_iff (r : Region) (a : Nat) : regionHas r a = true ↔ r.base ≤ a ∧ a < r.base + r.len := by
  simp only [regionHas, Bool.and_eq_true, decide_eq_true_eq]

theorem allMapped_iff_forall_mem (c : Config) (rs : List Region) : allMapped c rs ↔ ∀ r ∈ rs, regionMapped c r := by
  simp only [allMapped, regionMapped, regionsHave, List.any_eq_true]
  exact ⟨fun h r hr a ha => h a ⟨r, hr, ha⟩, fun h a ⟨r, hr, ha⟩ => h r hr a ha⟩

@[simp] theorem allMapped_nil (c : Config) : allMapped c [] :=
  (allMapped_iff_forall_mem c []).2 (by simp)

@[simp] theorem allMapped_cons (c : Config) (r : Region) (rs : List Region) :
    allMapped c (r :: rs) ↔ regionMapped c r ∧ allMapped c rs := by
  simp only [allMapped_iff_forall_mem, List.forall_mem_cons]

theorem fieldBytes_pos (f : Field) : 0 < f.bytes := by cases f <;> decide

/-- An element that lies inside a mapped region is mapped. -/
theorem elemMapped_of_regionMapped {c : Config} {f : Field} {r : Region} {a : Nat} (h : regionMapped c r)
    (hlow : r.base ≤ a) (hhigh : a + f.bytes ≤ r.base + r.len) : elemMapped c f a :=
  fun k hk => h (a + k) ((regionHas_iff r (a + k)).2 ⟨by omega, by omega⟩)

/-- A buffer of `n` elements is mapped exactly when each of its elements is. -/
theorem regionMapped_elemRegion_iff (c : Config) (f : Field) (base n : Nat) :
    regionMapped c (elemRegion f base n) ↔ ∀ i < n, elemMapped c f (base + i * f.bytes) := by
  constructor
  · intro h i hi
    have hend : (i + 1) * f.bytes ≤ n * f.bytes := Nat.mul_le_mul_right f.bytes hi
    rw [Nat.succ_mul] at hend
    exact elemMapped_of_regionMapped h (Nat.le_add_right _ _) (by simp only [elemRegion]; omega)
  · intro h a ha
    obtain ⟨hlow, hhigh⟩ := (regionHas_iff _ a).1 ha
    simp only [elemRegion] at hlow hhigh
    -- The byte's element is number (a - base) / E, and its place there the remainder.
    have hsplit := Nat.div_add_mod' (a - base) f.bytes
    have hindex : (a - base) / f.bytes < n := Nat.div_lt_of_lt_mul (by rw [Nat.mul_comm]; omega)
    have hbyte := h _ hindex _ (Nat.mod_lt (a - base) (fieldBytes_pos f))
    rwa [Nat.add_assoc, hsplit, Nat.add_sub_cancel' hlow] at hbyte

/-- A buffer whose length in bytes is a multiple of the element size is one of elements. -/
theorem elemRegion_div_bytes {f : Field} {len : Nat} (h : len % f.bytes = 0) (base : Nat) :
    elemRegion f base (len / f.bytes) = ⟨base, len⟩ := by
  rw [elemRegion, Nat.div_mul_cancel (Nat.dvd_of_mod_eq_zero h)]

/-! ### Computations that succeed, or else end with a bus error -/

/-- The computation succeeds if `Q` holds, and else ends with a bus error. -/
def OkElseBus {α : Type} (Q : Prop) (x : Except ErrorCode α) : Prop :=
  (Q → ∃ a, x = .ok a) ∧ (¬Q → x = .error .bus)

section
variable {α β σ : Type} {Q R : Prop}

theorem okElseBus_ok (hQ : Q) (a : α) : OkElseBus Q (.ok a : Except ErrorCode α) :=
  ⟨fun _ => ⟨a, rfl⟩, fun h => absurd hQ h⟩

theorem OkElseBus.of_iff {x : Except ErrorCode α} (h : OkElseBus Q x) (hiff : R ↔ Q) : OkElseBus R x := by
  rwa [hiff]

theorem OkElseBus.ne_bus {x : Except ErrorCode α} (h : OkElseBus Q x) (hQ : Q) : x ≠ .error .bus := by
  obtain ⟨a, rfl⟩ := h.1 hQ
  exact nofun

/-- Two computations in a row succeed if both do. -/
theorem OkElseBus.bind {x : Except ErrorCode α} {g : α → Except ErrorCode β} (hx : OkElseBus Q x)
    (hg : ∀ a, OkElseBus R (g a)) : OkElseBus (Q ∧ R) (x >>= g) := by
  by_cases hQ : Q
  · obtain ⟨a, rfl⟩ := hx.1 hQ
    exact (hg a).of_iff (and_iff_right hQ)
  · rw [hx.2 hQ]
    exact ⟨fun h => absurd h.1 hQ, fun _ => rfl⟩

/-- A step that cannot fail, after a computation. -/
theorem OkElseBus.bind_ok {x : Except ErrorCode α} (hx : OkElseBus Q x) (g : α → β) :
    OkElseBus Q (x >>= fun a => .ok (g a)) :=
  (hx.bind fun a => okElseBus_ok trivial (g a)).of_iff (and_iff_left trivial).symm

/-- A loop succeeds if each of its iterations does, on the states that its invariant `P` allows. -/
theorem okElseBus_loop_of_invariant {body : Nat → σ → Except ErrorCode σ} {Q : Nat → Prop} (P : Nat → σ → Prop)
    {n : Nat} (hbody : ∀ i x, i < n → P i x → OkElseBus (Q i) (body i x))
    (hkeep : ∀ i x y, P i x → body i x = .ok y → P (i + 1) y) {x : σ} (hx : P 0 x) :
    OkElseBus (∀ i < n, Q i) (loop body n x) ∧ ∀ y, loop body n x = .ok y → P n y := by
  induction n with
  | zero => exact ⟨okElseBus_ok (by simp) x, fun y hy => Except.ok.inj hy ▸ hx⟩
  | succ n ih =>
    obtain ⟨hloop, hP⟩ := ih fun i x hi => hbody i x (Nat.lt_succ_of_lt hi)
    have hall : (∀ i < n + 1, Q i) ↔ (∀ i < n, Q i) ∧ Q n := Nat.forall_lt_succ_right
    by_cases hQ : ∀ i < n, Q i
    · obtain ⟨y, hy⟩ := hloop.1 hQ
      simp only [loop, hy, Except.bind]
      exact ⟨(hbody n y n.lt_succ_self (hP y hy)).of_iff (hall.trans (and_iff_right hQ)),
        fun z => hkeep n y z (hP y hy)⟩
    · simp only [loop, hloop.2 hQ, Except.bind]
      exact ⟨⟨fun h => absurd (hall.1 h).1 hQ, fun _ => rfl⟩, nofun⟩

/-- A loop succeeds if each of its iterations does. -/
theorem okElseBus_loop {body : Nat → σ → Except ErrorCode σ} {Q : Nat → Prop} {n : Nat}
    (hbody : ∀ i x, i < n → OkElseBus (Q i) (body i x)) (x : σ) : OkElseBus (∀ i < n, Q i) (loop body n x) :=
  (okElseBus_loop_of_invariant (fun _ _ => True) (fun i x hi _ => hbody i x hi) (fun _ _ _ _ _ => trivial) trivial).1

/-! ### Computations that do not end with a bus error -/

/-- Two computations in a row that succeed: the first does, and the second from what it gives. -/
theorem exists_of_bind_eq_ok {x : Except ErrorCode α} {g : α → Except ErrorCode β} {b : β} (h : (x >>= g) = .ok b) :
    ∃ a, x = .ok a ∧ g a = .ok b := by
  cases x with
  | ok a => exact ⟨a, rfl, h⟩
  | error e => cases h

theorem bind_ne_bus {x : Except ErrorCode α} {g : α → Except ErrorCode β} (hx : x ≠ .error .bus)
    (hg : ∀ a, x = .ok a → g a ≠ .error .bus) : (x >>= g) ≠ .error .bus := by
  cases x with
  | ok a => exact hg a rfl
  | error e => exact fun h => hx (congrArg Except.error (Except.error.inj h))

theorem loop_ne_bus {body : Nat → σ → Except ErrorCode σ} {n : Nat}
    (hbody : ∀ i x, i < n → body i x ≠ .error .bus) (x : σ) : loop body n x ≠ .error .bus := by
  induction n with
  | zero => exact nofun
  | succ n ih =>
    exact bind_ne_bus (ih fun i x hi => hbody i x (Nat.lt_succ_of_lt hi)) fun y _ => hbody n y n.lt_succ_self

end

/-! ### Elements -/

/-- The bytes of an access of `n + 1` bytes: the first, and those of the access of `n` bytes after it. -/
theorem forall_bytes_succ_iff (c : Config) (a n : Nat) :
    (∀ k < n + 1, memOk c (a + k) = true) ↔ memOk c a = true ∧ ∀ k < n, memOk c (a + 1 + k) = true := by
  simp only [Nat.forall_lt_succ_left, Nat.add_zero, Nat.add_assoc, Nat.add_comm 1]

theorem okElseBus_readByte (c : Config) (m : Memory) (a : Nat) : OkElseBus (memOk c a = true) (readByte c m a) := by
  unfold readByte
  split
  · next h => exact okElseBus_ok h _
  · next h => exact ⟨fun h' => absurd h' h, fun _ => rfl⟩

theorem okElseBus_writeByte (c : Config) (m : Memory) (a : Nat) (b : Byte) :
    OkElseBus (memOk c a = true) (writeByte c m a b) := by
  unfold writeByte
  split
  · next h => exact okElseBus_ok h _
  · next h => exact ⟨fun h' => absurd h' h, fun _ => rfl⟩

theorem okElseBus_memRead (c : Config) (m : Memory) (a n : Nat) :
    OkElseBus (∀ k < n, memOk c (a + k) = true) (memRead c m a n) := by
  induction n generalizing a with
  | zero => exact okElseBus_ok (by simp) 0
  | succ n ih =>
    rw [forall_bytes_succ_iff]
    exact (okElseBus_readByte c m a).bind fun b => (ih (a + 1)).bind_ok fun high => b.toNat + 256 * high

theorem okElseBus_memWrite (c : Config) (m : Memory) (a n v : Nat) :
    OkElseBus (∀ k < n, memOk c (a + k) = true) (memWrite c m a n v) := by
  induction n generalizing m a v with
  | zero => exact okElseBus_ok (by simp) m
  | succ n ih =>
    rw [forall_bytes_succ_iff]
    exact (okElseBus_writeByte c m a _).bind fun m' => ih m' (a + 1) (v / 256)

theorem okElseBus_elemRead (c : Config) (f : Field) (m : Memory) (a : Nat) :
    OkElseBus (elemMapped c f a) (elemRead c f m a) := okElseBus_memRead c m a f.bytes

theorem okElseBus_elemWrite (c : Config) (f : Field) (m : Memory) (a v : Nat) :
    OkElseBus (elemMapped c f a) (elemWrite c f m a v) := okElseBus_memWrite c m a f.bytes v

theorem okElseBus_readElems (c : Config) (f : Field) (m : Memory) (addr : Nat → Nat) (n : Nat) :
    OkElseBus (∀ i < n, elemMapped c f (addr i)) (readElems c f m addr n) :=
  okElseBus_loop (fun i xs _ => (okElseBus_elemRead c f m (addr i)).bind_ok fun x => xs ++ [x]) []

theorem readElems_length {c : Config} {f : Field} {m : Memory} {addr : Nat → Nat} {n : Nat} {xs : List Nat}
    (h : readElems c f m addr n = .ok xs) : xs.length = n := by
  refine (okElseBus_loop_of_invariant (fun i ys => ys.length = i)
    (fun i ys _ _ => (okElseBus_elemRead c f m (addr i)).bind_ok fun x => ys ++ [x]) (fun i ys zs hys hzs => ?_)
    List.length_nil).2 xs h
  obtain ⟨x, -, hx⟩ := exists_of_bind_eq_ok hzs
  rw [← Except.ok.inj hx, List.length_append, List.length_singleton, hys]

end Sys2Proof.Machine

/-! PROOFS. The bulk commands of the row combiner and the generator end with a bus error exactly when a byte of their
buffers is not mapped (41_row_combiner.md R140-R143, 42_coeff_generator.md R167, R168). -/

namespace Sys2Proof.Machine

/-- ROW_AXPY reads and writes every element of its two buffers, whatever the scalar (R143). -/
theorem okElseBus_axpy (c : Config) (f : Field) (dst src sc n : Nat) (m : Memory) :
    OkElseBus (regionMapped c (elemRegion f dst n) ∧ regionMapped c (elemRegion f src n))
      (axpy c f dst src sc n m) := by
  have hlane : ∀ i m', OkElseBus (elemMapped c f (dst + i * f.bytes) ∧ elemMapped c f (src + i * f.bytes))
      (axpyLane c f dst src sc i m') := by
    intro i m'
    have hwrite := fun x y => okElseBus_elemWrite c f m' (dst + i * f.bytes) (gfAdd y (gfMul c f sc x))
    have hread := fun x => (okElseBus_elemRead c f m' (dst + i * f.bytes)).bind (hwrite x)
    exact ((okElseBus_elemRead c f m' (src + i * f.bytes)).bind hread).of_iff
      (by rw [and_self, and_comm])
  refine (okElseBus_loop (fun i m' _ => hlane i m') m).of_iff ?_
  simp only [regionMapped_elemRegion_iff, forall_and]

/-- ROW_SCALE reads and writes every element of its buffer, whatever the scalar (R143). -/
theorem okElseBus_scale (c : Config) (f : Field) (dst sc n : Nat) (m : Memory) :
    OkElseBus (regionMapped c (elemRegion f dst n)) (scale c f dst sc n m) := by
  rw [regionMapped_elemRegion_iff]
  refine okElseBus_loop (fun i m' _ => ?_) m
  exact ((okElseBus_elemRead c f m' _).bind fun y => okElseBus_elemWrite c f m' _ _).of_iff (and_self_iff).symm

/-- GEN_FILL writes every element of its buffer (R167). -/
theorem okElseBus_fill (c : Config) (f : Field) (gen : Generator) (out n : Nat) (x : BitVec 64 × Memory) :
    OkElseBus (regionMapped c (elemRegion f out n)) (loop (fillElem c f gen out) n x) := by
  rw [regionMapped_elemRegion_iff]
  exact okElseBus_loop (fun i y _ => (okElseBus_elemWrite c f y.2 _ _).bind_ok _) x

/-- The mask bits of `n` elements are read from its ⌈n / 8⌉ bytes, each of which holds the bit of some element. -/
theorem regionMapped_mask_iff (c : Config) (mk n : Nat) :
    regionMapped c ⟨mk, (n + 7) / 8⟩ ↔ ∀ i < n, memOk c (mk + i / 8) = true := by
  constructor
  · intro h i hi
    exact h _ ((regionHas_iff _ _).2 ⟨by simp, by simp only; omega⟩)
  · intro h a ha
    obtain ⟨hlow, hhigh⟩ := (regionHas_iff _ a).1 ha
    simp only at hlow hhigh
    have hbit := h (8 * (a - mk)) (by omega)
    rwa [Nat.mul_div_cancel_left _ (by decide), Nat.add_sub_cancel' hlow] at hbit

/-- GEN_FILL_PARTIAL reads every byte of its mask and writes every element of its buffer, whatever the mask (R168). -/
theorem okElseBus_fillMasked (c : Config) (f : Field) (gen : Generator) (out mk n : Nat) (x : BitVec 64 × Memory) :
    OkElseBus (regionMapped c (elemRegion f out n) ∧ regionMapped c ⟨mk, (n + 7) / 8⟩)
      (loop (fillMaskedElem c f gen out mk) n x) := by
  have helem : ∀ i y, OkElseBus (elemMapped c f (out + i * f.bytes) ∧ memOk c (mk + i / 8) = true)
      (fillMaskedElem c f gen out mk i y) := by
    intro i y
    have hwrite := fun v => (okElseBus_elemWrite c f y.2 (out + i * f.bytes) v).bind_ok
      fun m => ((drawCoef gen f.width y.1).2, m)
    refine ((okElseBus_memRead c y.2 (mk + i / 8) 1).bind fun b => hwrite _).of_iff ?_
    simp only [Nat.lt_one_iff, forall_eq, Nat.add_zero, and_comm]
  refine (okElseBus_loop (fun i y _ => helem i y) x).of_iff ?_
  simp only [regionMapped_elemRegion_iff, regionMapped_mask_iff, forall_and]

end Sys2Proof.Machine

/-! PROOFS. The pivot engine's procedures: the accesses that they are certain to make, and that they end with a bus
error only if a matrix region or the incoming symbol is not mapped (43_pivot_engine.md R191-R200). -/

namespace Sys2Proof.Machine

/-! ### Rows, SCAN, and the insertion of a unit row: accesses that memory does not decide -/

/-- A row of the coefficient matrix is mapped exactly when each of its elements is (R191). -/
theorem regionMapped_coefRow_iff (c : Config) (d : Decoder) (r : Nat) :
    regionMapped c (coefRow d r) ↔ ∀ j < d.dn.toNat, elemMapped c d.dfield (coefAddr d r j) := by
  rw [coefRow, regionMapped_elemRegion_iff]
  simp only [coefAddr, Nat.add_zero, Nat.add_mul, Nat.add_assoc]

/-- A row of the symbol matrix is mapped exactly when each of its elements is (R191). -/
theorem regionMapped_symRow_iff (c : Config) (d : Decoder) (r : Nat) :
    regionMapped c (symRow d r) ↔ ∀ k < symElems d, elemMapped c d.dfield (symAddr d r k) := by
  rw [symRow, regionMapped_elemRegion_iff]
  simp only [symAddr, Nat.zero_mul, Nat.add_zero]

theorem okElseBus_readRow (c : Config) (d : Decoder) (m : Memory) (r : Nat) :
    OkElseBus (regionMapped c (coefRow d r)) (readRow c d m r) :=
  (okElseBus_readElems c d.dfield m (coefAddr d r) d.dn.toNat).of_iff (regionMapped_coefRow_iff c d r)

/-- The decoder in the middle of SCAN, before row `i`: only STAT has changed, and only below row `i` (R195). -/
def ScannedBelow (d : Decoder) (i : Nat) (d' : Decoder) : Prop :=
  (∃ stat, d' = { d with stat := stat }) ∧ ∀ r, i ≤ r → statAt d' r = statAt d r

theorem scanRow_keeps_scannedBelow {c : Config} {m : Memory} {d d' d'' : Decoder} {i : Nat} (h : ScannedBelow d i d')
    (hrow : scanRow c m i d' = .ok d'') : ScannedBelow d (i + 1) d'' := by
  obtain ⟨⟨stat, rfl⟩, hstat⟩ := h
  have hsame : ScannedBelow d (i + 1) { d with stat := stat } := ⟨⟨stat, rfl⟩, fun r hr => hstat r (by omega)⟩
  unfold scanRow at hrow
  split at hrow
  · obtain ⟨row, -, hrow⟩ := exists_of_bind_eq_ok hrow
    split at hrow
    · cases hrow
      refine ⟨⟨_, rfl⟩, fun r hr => ?_⟩
      rw [← hstat r (by omega)]
      simp [statAt, List.getD_eq_getElem?_getD, List.getElem?_set_ne (show i ≠ r by omega)]
    · exact Except.ok.inj hrow ▸ hsame
  · exact Except.ok.inj hrow ▸ hsame

/-- SCAN reads exactly the rows that are PartiallyDecoded when it starts (R195). -/
theorem okElseBus_scan (c : Config) (m : Memory) (d : Decoder) :
    OkElseBus (∀ r < d.dn.toNat, statAt d r = .partiallyDecoded → regionMapped c (coefRow d r)) (scan c m d) := by
  refine (okElseBus_loop_of_invariant (ScannedBelow d) (fun i d' _ hd => ?_)
    (fun i d' d'' hd => scanRow_keeps_scannedBelow hd) ⟨⟨_, rfl⟩, fun _ _ => rfl⟩).1
  obtain ⟨⟨stat, rfl⟩, hstat⟩ := hd
  unfold scanRow
  rw [hstat i le_rfl]
  split
  · next hpart =>
    have hrow := okElseBus_readRow c { d with stat := stat } m i
    exact (hrow.bind_ok _).of_iff (forall_prop_of_true hpart)
  · next hpart => exact okElseBus_ok (fun h => absurd h hpart) _

/-- The insertion of a systematic symbol writes its whole new row, and reads the whole symbol (R200). -/
theorem okElseBus_insertUnitRow (c : Config) (d : Decoder) (i sp : Nat) (m : Memory) :
    OkElseBus (regionMapped c (coefRow d i) ∧
        regionMapped c (elemRegion d.dfield sp (symElems d)) ∧ regionMapped c (symRow d i))
      (insertUnitRow c d i sp m) := by
  rw [regionMapped_coefRow_iff, regionMapped_symRow_iff, regionMapped_elemRegion_iff]
  have hcopy : ∀ k m', OkElseBus
      (elemMapped c d.dfield (sp + k * d.dfield.bytes) ∧ elemMapped c d.dfield (symAddr d i k))
      (elemRead c d.dfield m' (sp + k * d.dfield.bytes) >>= fun x => elemWrite c d.dfield m' (symAddr d i k) x) :=
    fun k m' => (okElseBus_elemRead c d.dfield m' _).bind fun x => okElseBus_elemWrite c d.dfield m' _ x
  refine (OkElseBus.bind (okElseBus_loop (fun j m' _ => okElseBus_elemWrite c d.dfield m' (coefAddr d i j) _) m)
    fun m' => okElseBus_loop (fun k m'' _ => hcopy k m'') m').of_iff ?_
  simp only [forall_and]

/-! ### Procedures whose accesses depend on memory: no bus error if the matrices and the symbol are mapped -/

/-- The elements of both matrices of the session are mapped (R191). -/
structure MatricesMapped (c : Config) (d : Decoder) : Prop where
  coef : ∀ {r j : Nat}, r < d.dn.toNat → j < d.dn.toNat → elemMapped c d.dfield (coefAddr d r j)
  sym : ∀ {r k : Nat}, r < d.dn.toNat → k < symElems d → elemMapped c d.dfield (symAddr d r k)

/-- The elements of the incoming symbol are mapped (R199, R200). -/
def SymbolMapped (c : Config) (d : Decoder) (sp : Nat) : Prop :=
  ∀ k < symElems d, elemMapped c d.dfield (sp + k * d.dfield.bytes)

/-- Element `k` of a symbol lies below S bytes (R191). -/
theorem symElem_end_le {d : Decoder} {k : Nat} (hk : k < symElems d) :
    k * d.dfield.bytes + d.dfield.bytes ≤ d.ds.toNat := by
  have hend : (k + 1) * d.dfield.bytes ≤ symElems d * d.dfield.bytes := Nat.mul_le_mul_right _ hk
  rw [Nat.succ_mul] at hend
  exact hend.trans (Nat.div_mul_le_self _ _)

theorem symbolMapped_of_regionMapped {c : Config} {d : Decoder} {sp : Nat}
    (h : regionMapped c ⟨sp, d.ds.toNat⟩) : SymbolMapped c d sp := by
  intro k hk
  have hend := symElem_end_le hk
  exact elemMapped_of_regionMapped h (Nat.le_add_right _ _) (by simp only; omega)

/-- Row `r` of an N-row matrix ends within it. -/
theorem row_end_le {r n : Nat} (hr : r < n) (len : Nat) : r * len + len ≤ n * len := by
  rw [← Nat.succ_mul]
  exact Nat.mul_le_mul_right len hr

theorem matricesMapped_of_regionMapped {c : Config} {d : Decoder} (hcoef : regionMapped c (coefRegion d))
    (hsym : regionMapped c (symRegion d)) : MatricesMapped c d where
  coef := by
    intro r j hr hj
    have hrow := row_end_le hr d.dn.toNat
    exact (regionMapped_elemRegion_iff c d.dfield _ _).1 hcoef _ (by omega)
  sym := by
    intro r k hr hk
    have hrow := row_end_le hr d.ds.toNat
    have hend := symElem_end_le hk
    refine elemMapped_of_regionMapped hsym ?_ ?_ <;> simp only [symAddr, symRegion] <;> omega

section
variable {c : Config} {d : Decoder}

theorem regionMapped_coefRow (hd : MatricesMapped c d) {r : Nat} (hr : r < d.dn.toNat) : regionMapped c (coefRow d r) :=
  (regionMapped_coefRow_iff c d r).2 fun _ hj => hd.coef hr hj

theorem scan_ne_bus (hd : MatricesMapped c d) (m : Memory) : scan c m d ≠ .error .bus :=
  (okElseBus_scan c m d).ne_bus fun _ hr _ => regionMapped_coefRow hd hr

theorem forwardStep_ne_bus (hd : MatricesMapped c d) (m : Memory) {p : Nat} (hp : p < d.dn.toNat)
    (x : List Nat × List Nat) : forwardStep c d m p x ≠ .error .bus := by
  unfold forwardStep
  split
  · refine bind_ne_bus ((okElseBus_elemRead ..).ne_bus (hd.coef hp hp)) fun piv _ => ?_
    split
    · exact nofun
    · exact bind_ne_bus ((okElseBus_readRow ..).ne_bus (regionMapped_coefRow hd hp)) fun row _ => nofun
  · exact nofun

theorem forward_ne_bus (hd : MatricesMapped c d) (m : Memory) (v : List Nat) : forward c d m v ≠ .error .bus :=
  loop_ne_bus (fun _ x hp => forwardStep_ne_bus hd m hp x) _

/-- FORWARD does not lengthen the vector (R192). -/
theorem forward_length_le {m : Memory} {v : List Nat} {x : List Nat × List Nat} (h : forward c d m v = .ok x) :
    x.1.length ≤ v.length := by
  refine loop_keeps (fun y : List Nat × List Nat => y.1.length ≤ v.length) (fun p y z hz hy => ?_) h le_rfl
  unfold forwardStep at hz
  split at hz
  · obtain ⟨piv, -, hz⟩ := exists_of_bind_eq_ok hz
    split at hz
    · cases hz
    · obtain ⟨row, -, hz⟩ := exists_of_bind_eq_ok hz
      cases hz
      exact (List.length_zipWith.trans_le (Nat.min_le_left _ _)).trans hy
  · exact Except.ok.inj hz ▸ hy

theorem reducedSymbol_ne_bus (hd : MatricesMapped c d) {sp : Nat} (hsp : SymbolMapped c d sp) (fs : List Nat) {k : Nat}
    (hk : k < symElems d) (m : Memory) : reducedSymbol c d fs sp k m ≠ .error .bus := by
  refine bind_ne_bus ((okElseBus_elemRead ..).ne_bus (hsp k hk)) fun t _ => loop_ne_bus (fun p t hp => ?_) t
  split
  · exact bind_ne_bus ((okElseBus_elemRead ..).ne_bus (hd.sym hp hk)) fun x _ => nofun
  · exact nofun

theorem insertRow_ne_bus (hd : MatricesMapped c d) {sp : Nat} (hsp : SymbolMapped c d sp) {col : Nat}
    (hcol : col < d.dn.toNat) (v fs : List Nat) (m : Memory) : insertRow c d col v fs sp m ≠ .error .bus := by
  refine bind_ne_bus (loop_ne_bus (fun j m' hj => ?_) m) fun m' _ => loop_ne_bus (fun k m'' hk => ?_) m'
  · exact (okElseBus_elemWrite ..).ne_bus (hd.coef hcol hj)
  · exact bind_ne_bus (reducedSymbol_ne_bus hd hsp fs hk m'') fun t _ =>
      (okElseBus_elemWrite ..).ne_bus (hd.sym hcol hk)

theorem backsubElem_ne_bus {f : Field} {target source : Nat} (ht : elemMapped c f target) (hs : elemMapped c f source)
    (g : Nat) (m : Memory) : backsubElem c f g target source m ≠ .error .bus :=
  bind_ne_bus ((okElseBus_elemRead ..).ne_bus ht) fun _ _ =>
    bind_ne_bus ((okElseBus_elemRead ..).ne_bus hs) fun _ _ => (okElseBus_elemWrite ..).ne_bus ht

theorem backsubRow_ne_bus (hd : MatricesMapped c d) {col r : Nat} (hcol : col < d.dn.toNat) (hr : r < d.dn.toNat)
    (m : Memory) : backsubRow c d col r m ≠ .error .bus := by
  unfold backsubRow
  split
  · refine bind_ne_bus ((okElseBus_elemRead ..).ne_bus (hd.coef hr hcol)) fun g _ => ?_
    split
    · refine bind_ne_bus (loop_ne_bus (fun j m' hj => ?_) m) fun m' _ => loop_ne_bus (fun k m'' hk => ?_) m'
      · exact backsubElem_ne_bus (hd.coef hr hj) (hd.coef hcol hj) g m'
      · exact backsubElem_ne_bus (hd.sym hr hk) (hd.sym hcol hk) g m''
    · exact nofun
  · exact nofun

theorem backsub_ne_bus (hd : MatricesMapped c d) {col : Nat} (hcol : col < d.dn.toNat) (m : Memory) :
    backsub c d col m ≠ .error .bus :=
  loop_ne_bus (fun _ m' hr => backsubRow_ne_bus hd hcol hr m') m

/-- Storing a row as a pivot moves no matrix. -/
theorem matricesMapped_addPivot (hd : MatricesMapped c d) (col : Nat) : MatricesMapped c (addPivot d col) :=
  ⟨hd.coef, hd.sym⟩

/-- A row's status moves no matrix. -/
theorem matricesMapped_setStat (hd : MatricesMapped c d) (col : Nat) (x : SymbolStatus) :
    MatricesMapped c (setStat d col x) :=
  ⟨hd.coef, hd.sym⟩

end

theorem finishConsume_ne_bus {s : State} {d : Decoder} (hd : MatricesMapped s.config d) (su dep : Bool) (res : Nat)
    (m : Memory) : finishConsume s su dep res d m ≠ .error .bus := by
  unfold finishConsume
  split
  · exact bind_ne_bus (scan_ne_bus hd m) fun d' _ => nofun
  · exact nofun

theorem unitVector_length (n i : Nat) : (unitVector n i).length = n := by simp [unitVector]

section
variable {s : State} {sp : Nat} (hd : MatricesMapped s.config s.dec) (hsp : SymbolMapped s.config s.dec sp)
include hd hsp

theorem consumeRow_ne_bus (l : Latched) {v : List Nat} (hv : v.length ≤ s.dec.dn.toNat) :
    consumeRow s l v sp ≠ .error .bus := by
  refine bind_ne_bus (forward_ne_bus hd s.memory v) fun x hx => ?_
  obtain ⟨v', fs⟩ := x
  have hlen : v'.length ≤ s.dec.dn.toNat := (forward_length_le hx).trans hv
  dsimp only
  split
  · exact finishConsume_ne_bus hd _ _ _ _
  · next col hfind =>
    have hcol : col < s.dec.dn.toNat := (List.findIdx?_eq_some_iff_getElem.1 hfind).1.trans_le hlen
    have hd' := matricesMapped_addPivot hd col
    split
    · exact nofun
    · exact bind_ne_bus (insertRow_ne_bus hd hsp hcol v' fs s.memory) fun m _ =>
        bind_ne_bus (backsub_ne_bus hd' hcol m) fun m' _ =>
          finishConsume_ne_bus (matricesMapped_setStat hd' col _) _ _ _ m'

theorem consumeUnit_ne_bus (l : Latched) {i : Nat} (hi : i < s.dec.dn.toNat) : consumeUnit s l i sp ≠ .error .bus := by
  have hd' := matricesMapped_addPivot hd i
  unfold consumeUnit
  split
  · split
    · exact consumeRow_ne_bus hd hsp l (unitVector_length _ i).le
    · exact finishConsume_ne_bus hd _ _ _ _
  · have hnew : regionMapped s.config (coefRow s.dec i) ∧
        regionMapped s.config (elemRegion s.dec.dfield sp (symElems s.dec)) ∧ regionMapped s.config (symRow s.dec i) :=
      ⟨regionMapped_coefRow hd hi, (regionMapped_elemRegion_iff ..).2 hsp,
        (regionMapped_symRow_iff ..).2 fun _ hk => hd.sym hi hk⟩
    exact bind_ne_bus ((okElseBus_insertUnitRow ..).ne_bus hnew) fun m _ =>
      bind_ne_bus (backsub_ne_bus hd' hi m) fun m' _ =>
        finishConsume_ne_bus (matricesMapped_setStat hd' i _) _ _ _ m'

end

end Sys2Proof.Machine

/-! PROOFS. What the body of every command says of its end: which parts of the state a success changes, and when it is a
bus error; and from it the statements about ERR_BUS and IRQ (60_exceptions.md R244, R246, R249). -/

namespace Sys2Proof.Machine

/-! ### The body of a command -/

/-- Of the whole state, only RES, the decoder, the generator and memory have changed from `s` to `u`. -/
def ChangesOnlyResults (s u : State) : Prop :=
  u = { s with res := u.res, dec := u.dec, gen := u.gen, memory := u.memory }

theorem ChangesOnlyResults.status_eq {s u : State} (h : ChangesOnlyResults s u) : u.status = s.status := by
  rw [h]

theorem ChangesOnlyResults.ctrl_eq {s u : State} (h : ChangesOnlyResults s u) : u.ctrl = s.ctrl := by
  rw [h]

/-- What every proof about a command's end needs of the command's body. -/
structure BodySpec (i : Instr) (s : State) (body : Latched → Except ErrorCode State) : Prop where
  /-- A success changes only results. -/
  results : ∀ {l : Latched} {u : State}, body l = .ok u → ChangesOnlyResults s u
  /-- A byte of a certain access that is not mapped is a bus error. -/
  busError : ∀ {l : Latched}, checksPass i l s = true → ¬allMapped s.config (certainAccesses i l s.dec) →
    body l = .error .bus
  /-- Without a byte of a buffer that is not mapped there is no bus error. -/
  noBusError : ∀ {l : Latched}, checksPass i l s = true →
    allMapped s.config (readBuffers i l s.dec ++ writeBuffers i l s.dec) → body l ≠ .error .bus

/-- The command runs a body of this kind. -/
def HasBodySpec (i : Instr) (s : State) : Prop := ∃ body, exec i s = runCommand i s body ∧ BodySpec i s body

/-- The body of a command that accesses no memory. -/
theorem bodySpec_of_no_access {i : Instr} {s : State} {g : Latched → State}
    (hnone : ∀ l, certainAccesses i l s.dec = []) (hres : ∀ l, ChangesOnlyResults s (g l)) :
    BodySpec i s fun l => .ok (g l) where
  results h := Except.ok.inj h ▸ hres _
  busError := fun {l} _ hbad => absurd (by simp only [hnone l, allMapped_nil]) hbad
  noBusError _ _ := nofun

/-- The body of a command whose certain accesses are all that it makes. -/
theorem bodySpec_of_okElseBus {α : Type} {i : Instr} {s : State} {x : Latched → Except ErrorCode α} {g : α → State}
    (hres : ∀ a, ChangesOnlyResults s (g a))
    (hacc : ∀ l, checksPass i l s = true → OkElseBus (allMapped s.config (certainAccesses i l s.dec)) (x l))
    (hsub : ∀ l, allMapped s.config (readBuffers i l s.dec ++ writeBuffers i l s.dec) →
      allMapped s.config (certainAccesses i l s.dec)) :
    BodySpec i s fun l => x l >>= fun a => .ok (g a) where
  results h := by
    obtain ⟨a, -, ha⟩ := exists_of_bind_eq_ok h
    exact Except.ok.inj ha ▸ hres a
  busError hpass hbad := ((hacc _ hpass).bind_ok g).2 hbad
  noBusError hpass hall := ((hacc _ hpass).bind_ok g).ne_bus (hsub _ hall)

/-- No check of a command that goes on has found an error. -/
theorem check_of_checksPass {i : Instr} {l : Latched} {s : State} (h : checksPass i l s = true) {b : Bool}
    {e : ErrorCode} (hmem : (b, e) ∈ checks i l s) : b = false :=
  firstError_isNone.1 h _ hmem

/-- The length of ROW_AXPY and ROW_SCALE is a number of elements (41_row_combiner.md R140). -/
theorem rowLength_of_checksPass {f : Field} {l : Latched} {s : State} {i : Instr}
    (hi : i = .rowAxpy f ∨ i = .rowScale f) (h : checksPass i l s = true) : l.ops.a2.toNat % f.bytes = 0 := by
  have hcheck : decide (l.ops.a2.toNat % f.bytes ≠ 0) = false :=
    check_of_checksPass h (e := .len) (by obtain rfl | rfl := hi <;> simp [checks, rowAxpyChecks, rowScaleChecks])
  simpa using hcheck

theorem rowAxpy_bodySpec (f : Field) (s : State) : HasBodySpec (.rowAxpy f) s := by
  refine ⟨_, rfl, bodySpec_of_okElseBus (fun _ => rfl) (fun l h => ?_) fun l h => ?_⟩
  · refine (okElseBus_axpy ..).of_iff ?_
    simp only [certainAccesses, rowDst, rowSrc, allMapped_cons, allMapped_nil, and_true,
      elemRegion_div_bytes (rowLength_of_checksPass (.inl rfl) h)]
  · simp only [readBuffers, writeBuffers, certainAccesses, List.cons_append, List.nil_append, allMapped_cons,
      allMapped_nil, and_true] at h ⊢
    exact ⟨h.1, h.2.1⟩

theorem rowScale_bodySpec (f : Field) (s : State) : HasBodySpec (.rowScale f) s := by
  refine ⟨_, rfl, bodySpec_of_okElseBus (fun _ => rfl) (fun l h => ?_) fun l h => ?_⟩
  · refine (okElseBus_scale ..).of_iff ?_
    simp only [certainAccesses, rowDst, allMapped_cons, allMapped_nil, and_true,
      elemRegion_div_bytes (rowLength_of_checksPass (.inr rfl) h)]
  · exact ((allMapped_cons ..).1 h).2

theorem genFill_bodySpec (f : Field) (s : State) : HasBodySpec (.genFill f) s := by
  refine ⟨_, rfl, bodySpec_of_okElseBus (fun _ => rfl) (fun l _ => ?_) fun l h => h⟩
  refine (okElseBus_fill ..).of_iff ?_
  simp only [certainAccesses, fillOut, allMapped_cons, allMapped_nil, and_true]

theorem genFillPartial_bodySpec (f : Field) (s : State) : HasBodySpec (.genFillPartial f) s := by
  refine ⟨_, rfl, bodySpec_of_okElseBus (fun _ => rfl) (fun l _ => ?_) fun l h => ?_⟩
  · refine (okElseBus_fillMasked ..).of_iff ?_
    simp only [certainAccesses, fillOut, fillMask, allMapped_cons, allMapped_nil, and_true]
  · simp only [readBuffers, writeBuffers, certainAccesses, List.cons_append, List.nil_append, allMapped_cons,
      allMapped_nil, and_true] at h ⊢
    exact h.symm

theorem decUpdateStatus_bodySpec (f : Field) (s : State) : HasBodySpec (.decUpdateStatus f) s := by
  have hrows : ∀ l, allMapped s.config (certainAccesses (.decUpdateStatus f) l s.dec) ↔
      ∀ r < s.dec.dn.toNat, statAt s.dec r = .partiallyDecoded → regionMapped s.config (coefRow s.dec r) := by
    intro l
    simp only [certainAccesses, allMapped_iff_forall_mem, List.forall_mem_map, List.mem_filter, List.mem_range,
      decide_eq_true_eq, and_imp]
  refine ⟨_, rfl, bodySpec_of_okElseBus (fun _ => rfl) (fun l _ => (okElseBus_scan ..).of_iff (hrows l)) fun l h => ?_⟩
  simp only [readBuffers, writeBuffers, List.append_nil, allMapped_cons, allMapped_nil, and_true] at h
  obtain ⟨hcoef, hsym⟩ := h
  exact (hrows l).2 fun r hr _ => regionMapped_coefRow (matricesMapped_of_regionMapped hcoef hsym) hr

theorem finishConsume_changesOnlyResults {s u : State} {su dep : Bool} {res : Nat} {d : Decoder} {m : Memory}
    (h : finishConsume s su dep res d m = .ok u) : ChangesOnlyResults s u := by
  unfold finishConsume at h
  split at h
  · obtain ⟨d', -, h⟩ := exists_of_bind_eq_ok h
    exact Except.ok.inj h ▸ rfl
  · exact Except.ok.inj h ▸ rfl

theorem consumeRow_changesOnlyResults {s u : State} {l : Latched} {v : List Nat} {sp : Nat}
    (h : consumeRow s l v sp = .ok u) : ChangesOnlyResults s u := by
  obtain ⟨x, -, h⟩ := exists_of_bind_eq_ok h
  dsimp only at h
  split at h
  · exact finishConsume_changesOnlyResults h
  · split at h
    · cases h
    · obtain ⟨m, -, h⟩ := exists_of_bind_eq_ok h
      obtain ⟨m', -, h⟩ := exists_of_bind_eq_ok h
      exact finishConsume_changesOnlyResults h

theorem consumeUnit_changesOnlyResults {s u : State} {l : Latched} {i sp : Nat}
    (h : consumeUnit s l i sp = .ok u) : ChangesOnlyResults s u := by
  unfold consumeUnit at h
  split at h
  · split at h
    · exact consumeRow_changesOnlyResults h
    · exact finishConsume_changesOnlyResults h
  · obtain ⟨m, -, h⟩ := exists_of_bind_eq_ok h
    obtain ⟨m', -, h⟩ := exists_of_bind_eq_ok h
    exact finishConsume_changesOnlyResults h

/-- DEC_CONSUME reads its whole vector before it does anything else (43_pivot_engine.md R199). -/
theorem decConsume_bodySpec (f : Field) (s : State) : HasBodySpec (.decConsume f) s := by
  have hread := fun l : Latched => (okElseBus_readElems s.config s.dec.dfield s.memory
    (fun j => l.ops.a0.toNat + j * s.dec.dfield.bytes) s.dec.dn.toNat).of_iff (regionMapped_elemRegion_iff ..)
  refine ⟨_, rfl, fun {l u} h => ?_, fun {l} _ hbad => ?_, fun {l} _ hall => ?_⟩
  · obtain ⟨v, -, h⟩ := exists_of_bind_eq_ok h
    exact consumeRow_changesOnlyResults h
  · have hvector : ¬regionMapped s.config (consumeVector s.dec l) := by
      simpa only [certainAccesses, allMapped_cons, allMapped_nil, and_true] using hbad
    rw [(hread l).2 hvector]
    rfl
  · simp only [readBuffers, writeBuffers, List.cons_append, List.nil_append, allMapped_cons, allMapped_nil,
      and_true] at hall
    obtain ⟨hvector, hsymbol, hcoef, hsym, -⟩ := hall
    refine bind_ne_bus ((hread l).ne_bus hvector) fun v hv => ?_
    exact consumeRow_ne_bus (matricesMapped_of_regionMapped hcoef hsym) (symbolMapped_of_regionMapped hsymbol) l
      (readElems_length hv).le

/-- DEC_CONSUME_SYS at an empty index inserts the unit row before it does anything else (43_pivot_engine.md R200). -/
theorem decConsumeSys_bodySpec (f : Field) (s : State) : HasBodySpec (.decConsumeSys f) s := by
  refine ⟨_, rfl, fun {l u} h => consumeUnit_changesOnlyResults h, fun {l} _ hbad => ?_, fun {l} hpass hall => ?_⟩
  · unfold consumeUnit
    simp only [certainAccesses] at hbad
    split at hbad
    · exact absurd (allMapped_nil _) hbad
    · next hempty =>
      rw [if_neg hempty, (okElseBus_insertUnitRow ..).2 ?_]
      · rfl
      · rintro ⟨hcoef, hsymbol, hsym⟩
        exact hbad (by simp only [allMapped_cons, allMapped_nil, hcoef, hsymbol, hsym, and_self])
  · simp only [readBuffers, writeBuffers, List.cons_append, List.nil_append, allMapped_cons, allMapped_nil,
      and_true] at hall
    obtain ⟨hsymbol, hcoef, hsym, -⟩ := hall
    have hindex : (decide (s.dec.dn.toNat ≤ l.ops.a0.toNat) || !inRange (consumeSymbol s.dec l)) = false :=
      check_of_checksPass hpass (e := .range) (by simp [checks, decConsumeSysChecks])
    simp only [Bool.or_eq_false_iff, decide_eq_false_iff_not, not_le] at hindex
    exact consumeUnit_ne_bus (matricesMapped_of_regionMapped hcoef hsym) (symbolMapped_of_regionMapped hsymbol) l
      hindex.1

theorem exec_bodySpec (i : Instr) (s : State) : HasBodySpec i s := by
  cases i with
  | rowAxpy f => exact rowAxpy_bodySpec f s
  | rowScale f => exact rowScale_bodySpec f s
  | genFill f => exact genFill_bodySpec f s
  | genFillPartial f => exact genFillPartial_bodySpec f s
  | decConsume f => exact decConsume_bodySpec f s
  | decConsumeSys f => exact decConsumeSys_bodySpec f s
  | decUpdateStatus f => exact decUpdateStatus_bodySpec f s
  | nop | genSeed | genDensity | gfAdd f | gfMul f | gfDiv f | gfInv f | decInit f | decQuery f =>
    exact ⟨_, rfl, bodySpec_of_no_access (fun _ => rfl) fun _ => rfl⟩

/-! ### The end of a command -/

/-- The error of a command's first failing check is one of the list's. -/
theorem exists_mem_of_firstError {cs : List (Bool × ErrorCode)} {e : ErrorCode} (h : firstError cs = some e) :
    ∃ x ∈ cs, x.2 = e := by
  induction cs with
  | nil => cases h
  | cons x rest ih =>
    unfold firstError at h
    split at h
    · exact ⟨x, List.mem_cons_self, Option.some.inj h⟩
    · obtain ⟨y, hy, hye⟩ := ih h
      exact ⟨y, List.mem_cons_of_mem _ hy, hye⟩

/-- No check of a command is about the memory system's answer (60_exceptions.md R243). -/
theorem firstError_checks_ne_bus (i : Instr) (l : Latched) (s : State) : firstError (checks i l s) ≠ some .bus := by
  intro h
  obtain ⟨x, hx, hbus⟩ := exists_mem_of_firstError h
  have hall : ∀ y ∈ checks i l s, y.2 ≠ .bus := by
    cases i <;> simp [checks, gfBinaryChecks, gfDivChecks, gfInvChecks, rowAxpyChecks, rowScaleChecks,
      genDensityChecks, genFillChecks, genFillPartialChecks, decInitChecks, decConsumeChecks, decConsumeSysChecks,
      decQueryChecks, sessionChecks]
  exact hall x hx hbus

/-- Only ERR_BUS has the code 0x0B (60_exceptions.md R241). -/
theorem code_eq_bus_iff (e : ErrorCode) : e.code = 0x0B ↔ e = .bus := by cases e <;> decide

/-- A command that ends with ERR_BUS: its checks held, its body ended with the bus error, and its whole next state. -/
theorem bus_of_errCode {i : Instr} {s t : State} {l : Latched} {body : Latched → Except ErrorCode State}
    (hspec : BodySpec i s body) (hl : s.eng = .busy l) (hok : s.status.err = false)
    (h : runCommand i s body = .next t) (herr : t.status.err = true) (hcode : t.status.errCode = 0x0B) :
    checksPass i l s = true ∧ body l = .error .bus ∧
      t = raiseError .bus l (havoc (writeBuffers i l s.dec) (endSession i s)) := by
  obtain ⟨e, hcheck, rfl⟩ | ⟨-, e, hne, -, rfl⟩ | ⟨hcheck, hbody, rfl⟩ | ⟨-, u, hbody, rfl⟩ := runCommand_cases hl h
  · exact absurd ((code_eq_bus_iff e).1 hcode ▸ hcheck) (firstError_checks_ne_bus i l s)
  · exact absurd ((code_eq_bus_iff e).1 hcode) hne
  · have hpass : checksPass i l s = true := by simp only [checksPass, hcheck, Option.isNone_none]
    exact ⟨hpass, hbody, by simp only [writesOf, hpass, if_true]⟩
  · have hstatus : u.status = s.status := (hspec.results hbody).status_eq
    simp only [complete_status, disturb_status, hstatus, hok, Bool.false_eq_true] at herr

/-- A command in flight whose checks hold and whose body ends with a bus error ends with ERR_BUS. -/
theorem errCode_of_bus {i : Instr} {s t : State} {l : Latched} {body : Latched → Except ErrorCode State}
    (hl : s.eng = .busy l) (hpass : checksPass i l s = true) (hbus : body l = .error .bus)
    (h : runCommand i s body = .next t) : t.status.err = true ∧ t.status.errCode = 0x0B := by
  simp only [runCommand, hl, Option.isNone_iff_eq_none.1 hpass, hbus, conclude] at h
  cases h
  exact ⟨rfl, rfl⟩

/-- Free values change memory and their own count, and nothing else. -/
theorem havoc_eq (rs : List Region) (s : State) :
    havoc rs s = { s with memory := (havoc rs s).memory, fresh := (havoc rs s).fresh } := by
  cases rs <;> rfl

theorem allMapped_of_forall_not {c : Config} {rs : List Region}
    (h : ¬∃ a, regionsHave rs a = true ∧ memOk c a = false) : allMapped c rs := by
  intro a ha
  by_contra hbad
  exact h ⟨a, ha, Bool.eq_false_iff.2 hbad⟩

/-- Settles O42: by what every body does at an unmapped byte (`exec_bodySpec`), and by the free values of `havoc`. -/
theorem busErrorLeavesItsBytesFree : Obligations.BusErrorLeavesItsBytesFree := by
  refine ⟨?_, ?_, ?_⟩
  · intro i s t l a hl hpass h ha hbad
    obtain ⟨body, hbody, hspec⟩ := exec_bodySpec i s
    have hnot : ¬allMapped s.config (certainAccesses i l s.dec) := fun hall => by
      simp only [hall a ha, Bool.true_eq_false] at hbad
    exact errCode_of_bus hl hpass (hspec.busError hpass hnot) (hbody ▸ h)
  · intro i s t l hl hok h herr hcode
    obtain ⟨body, hbody, hspec⟩ := exec_bodySpec i s
    obtain ⟨hpass, hbus, -⟩ := bus_of_errCode hspec hl hok (hbody ▸ h) herr hcode
    refine ⟨hpass, ?_⟩
    by_contra hnone
    exact hspec.noBusError hpass (allMapped_of_forall_not hnone) hbus
  · intro i s t l hwf hl hok h herr hcode
    obtain ⟨body, hbody, hspec⟩ := exec_bodySpec i s
    obtain ⟨-, -, rfl⟩ := bus_of_errCode hspec hl hok (hbody ▸ h) herr hcode
    obtain ⟨-, hout, hin⟩ := havoc_spec (s := endSession i s) (writeBuffers i l s.dec)
      (by rwa [endSession_memory])
    rw [endSession_memory] at hout
    rw [endSession_fresh] at hin
    refine ⟨?_, hout, fun a hlt ha => hin a ha hlt⟩
    refine (congrArg (raiseError .bus l) (havoc_eq _ _)).trans ?_
    cases i <;> rfl

/-! ### The interrupt line -/

/-- No command changes CTRL (60_exceptions.md R249). -/
theorem runCommand_ctrl {i : Instr} {s t : State} {l : Latched} {body : Latched → Except ErrorCode State}
    (hspec : BodySpec i s body) (hl : s.eng = .busy l) (h : runCommand i s body = .next t) : t.ctrl = s.ctrl := by
  obtain ⟨e, -, rfl⟩ | ⟨-, e, -, -, rfl⟩ | ⟨-, -, rfl⟩ | ⟨-, u, hbody, rfl⟩ := runCommand_cases hl h
  · rfl
  · rw [raiseError_ctrl, disturb_ctrl]
  · rw [raiseError_ctrl, havoc_ctrl, endSession_ctrl]
  · rw [complete_ctrl, disturb_ctrl]
    exact (hspec.results hbody).ctrl_eq

/-- Every command in flight ends with IRQ as IE says. -/
theorem irq_of_exec {i : Instr} {s t : State} {l : Latched} (hl : s.eng = .busy l) (h : exec i s = .next t) :
    irq t = s.ctrl.ie := by
  obtain ⟨body, hbody, hspec⟩ := exec_bodySpec i s
  rw [hbody] at h
  rw [irq, runCommand_ctrl hspec hl h, (runCommand_ends hl h).1, Bool.and_true]

/-- With the engine idle and ERR = 0, a word written to CMD is accepted (44_engine_control.md R231). -/
theorem issue_of_idle {s : State} (hidle : s.eng = .idle) (hok : s.status.err = false) (w : Word) :
    issue w s = acceptCommand w s := by
  simp only [issue, isBusy, hidle, hok, Bool.or_self, Bool.false_eq_true, if_false]

/-- Settles O58: completion by `irq_of_exec`; the other clauses by the part of IE and DONE that each of them clears or
leaves as it is. -/
theorem irqFollowsCompletion : Obligations.IrqFollowsCompletion := by
  intro s
  refine ⟨rfl, fun i l t hl h => irq_of_exec hl h, ?_, ?_, ?_, ?_, ?_⟩
  · intro v hv
    simp only [writeStatus_eq, irq, hv, Bool.not_true, Bool.and_false]
  · intro v hv
    simp only [irq, writeCtrl_ctrl, BitVec.testBit_toNat, hv, Bool.false_and]
  · intro w hidle hok
    simp only [issue_of_idle hidle hok, irq, acceptCommand_status, Bool.and_false]
  · intro w hrefuse
    simp only [issue_of_busy_or_err hrefuse, irq, refuseCommand_ctrl, refuseCommand_status]
  · simp only [irq, reset, resetBlock_ctrl, Ctrl.reset, Bool.false_and]

end Sys2Proof.Machine

/-! PROOFS. The decoder and the encoder are inverse (30_encoding.md R91, R93). -/

namespace Sys2Proof.Machine

/-- The word of every command decodes to it, one evaluation for each command and field. -/
theorem decode_encode (i : Instr) : decode (encode i) = some i := by
  cases i with
  | nop | genSeed | genDensity => decide
  | gfAdd f | gfMul f | gfDiv f | gfInv f | rowAxpy f | rowScale f | genFill f | genFillPartial f | decInit f
  | decConsume f | decConsumeSys f | decUpdateStatus f | decQuery f => cases f <;> decide

/-- Settles O2: `encode_of_decode` one way, `decode_encode` the other. -/
theorem decodeAndEncodeAgree : Obligations.DecodeAndEncodeAgree := by
  intro w i
  constructor
  · exact encode_of_decode
  · rintro rfl
    exact decode_encode i

/-- Settles O1: the worked words are those of their commands, by evaluation. -/
theorem workedEncodingsDecode : Obligations.WorkedEncodingsDecode := by
  unfold Obligations.WorkedEncodingsDecode
  decide

end Sys2Proof.Machine

/-! PROOFS. Two runs of the same computation, on memories that a relation holds together: they read the same, they write
alike, so they end alike (20_memory.md R61, R66). -/

namespace Sys2Proof.Machine

/-! ### Computations that end alike -/

section
variable {α β γ δ σ τ : Type}

/-- The two computations end with results that `R` relates, or with the same error. -/
def EndAlike (R : α → β → Prop) : Except ErrorCode α → Except ErrorCode β → Prop
  | .ok a, .ok b => R a b
  | .error e, .error e' => e = e'
  | _, _ => False

theorem EndAlike.of_eq {R : α → α → Prop} {x y : Except ErrorCode α} (h : x = y) (hR : ∀ a, R a a) : EndAlike R x y := by
  subst h
  cases x with
  | ok a => exact hR a
  | error e => exact rfl

theorem EndAlike.bind {R : α → β → Prop} {Q : γ → δ → Prop} {x : Except ErrorCode α} {y : Except ErrorCode β}
    {g : α → Except ErrorCode γ} {h : β → Except ErrorCode δ} (hxy : EndAlike R x y)
    (hgh : ∀ a b, R a b → EndAlike Q (g a) (h b)) : EndAlike Q (x >>= g) (y >>= h) := by
  cases x <;> cases y
  case ok.ok a b => exact hgh a b hxy
  case error.error e e' => exact hxy
  all_goals exact hxy.elim

/-- The same computation first, and then two that end alike. -/
theorem EndAlike.bind_same {Q : γ → δ → Prop} {x y : Except ErrorCode α} {g : α → Except ErrorCode γ}
    {h : α → Except ErrorCode δ} (hxy : x = y) (hgh : ∀ a, x = .ok a → EndAlike Q (g a) (h a)) :
    EndAlike Q (x >>= g) (y >>= h) := by
  subst hxy
  cases x with
  | ok a => exact hgh a rfl
  | error e => exact rfl

theorem EndAlike.loop {R : σ → τ → Prop} {body : Nat → σ → Except ErrorCode σ} {body' : Nat → τ → Except ErrorCode τ}
    {n : Nat} (hbody : ∀ i < n, ∀ x y, R x y → EndAlike R (body i x) (body' i y)) {x : σ} {y : τ} (hxy : R x y) :
    EndAlike R (loop body n x) (loop body' n y) := by
  induction n with
  | zero => exact hxy
  | succ n ih =>
    exact (ih fun i hi => hbody i (Nat.lt_succ_of_lt hi)).bind fun x' y' => hbody n n.lt_succ_self x' y'

/-- A loop depends on its iterations only. -/
theorem loop_congr {body body' : Nat → σ → Except ErrorCode σ} {n : Nat} (h : ∀ i < n, ∀ x, body i x = body' i x)
    (x : σ) : loop body n x = loop body' n x := by
  induction n with
  | zero => rfl
  | succ n ih =>
    simp only [Sys2Proof.Machine.loop, ih fun i hi => h i (Nat.lt_succ_of_lt hi)]
    exact congrArg _ (funext fun y => h n n.lt_succ_self y)

theorem EndAlike.exists_ok {R : α → β → Prop} {x : Except ErrorCode α} {y : Except ErrorCode β} {a : α}
    (h : EndAlike R x y) (hx : x = .ok a) : ∃ b, y = .ok b ∧ R a b := by
  subst hx
  cases y with
  | ok b => exact ⟨b, rfl, h⟩
  | error e => exact h.elim

theorem EndAlike.error_eq {R : α → β → Prop} {x : Except ErrorCode α} {y : Except ErrorCode β} {e : ErrorCode}
    (h : EndAlike R x y) (hx : x = .error e) : y = .error e := by
  subst hx
  cases y with
  | ok b => exact h.elim
  | error e' => exact congrArg _ h.symm

end

/-! ### Memories that a relation holds together -/

/-- The bytes of a command that `regionsHave` names are those of each of its buffers. -/
theorem forall_regionsHave_cons (r : Region) (rs : List Region) (S : Nat → Prop) :
    (∀ a, regionsHave (r :: rs) a = true → S a) ↔
      (∀ a, regionHas r a = true → S a) ∧ ∀ a, regionsHave rs a = true → S a := by
  simp only [regionsHave, List.any_cons, Bool.or_eq_true, or_imp, forall_and]

theorem forall_regionsHave_nil (S : Nat → Prop) : (∀ a, regionsHave [] a = true → S a) ↔ True := by
  simp [regionsHave]

/-- The bytes of the element are among `S`. -/
def ElemIn (S : Nat → Prop) (f : Field) (a : Nat) : Prop := ∀ k < f.bytes, S (a + k)

/-- On memories that `R` relates, the bytes of `S` read alike, and a write of bytes of `W` keeps `R`, as free values in
bytes of `W` do. -/
structure MemSim (c : Config) (S W : Nat → Prop) (R : Memory → Memory → Prop) : Prop where
  read : ∀ {m m' : Memory} {f : Field} {a : Nat}, R m m' → ElemIn S f a → elemRead c f m a = elemRead c f m' a
  write : ∀ {m m' : Memory} {f : Field} {a v : Nat}, R m m' → ElemIn W f a →
    EndAlike R (elemWrite c f m a v) (elemWrite c f m' a v)
  havoc : ∀ {m m' : Memory} {rs : List Region} (n : Nat), R m m' → (∀ a, regionsHave rs a = true → W a) →
    R (havocRegions n rs m) (havocRegions n rs m')

/-- Equal memories read alike and are written alike. -/
theorem memSim_eq (c : Config) : MemSim c (fun _ => True) (fun _ => True) Eq where
  read h _ := h ▸ rfl
  write h _ := .of_eq (h ▸ rfl) fun _ => rfl
  havoc _ h _ := h ▸ rfl

/-- From `m0` and `m0'`, two runs have written to bytes of `W` only, keep the canonical form, and agree on `S`. -/
structure Confined (S W : Nat → Prop) (m0 m0' m m' : Memory) : Prop where
  wf : Memory.wf m
  wf' : Memory.wf m'
  out : ∀ a, ¬W a → Memory.read m a = Memory.read m0 a
  out' : ∀ a, ¬W a → Memory.read m' a = Memory.read m0' a
  agree : ∀ a, S a → Memory.read m a = Memory.read m' a

section
variable {c : Config} {S W : Nat → Prop} {m0 m0' m m' : Memory}

theorem Confined.start (hwf : Memory.wf m) (hwf' : Memory.wf m') (h : ∀ a, S a → Memory.read m a = Memory.read m' a) :
    Confined S W m m' m m' :=
  ⟨hwf, hwf', fun _ _ => rfl, fun _ _ => rfl, h⟩

theorem Confined.write (h : Confined S W m0 m0' m m') {a : Nat} (hW : W a) (b : Byte) :
    Confined S W m0 m0' (Memory.write m a b) (Memory.write m' a b) := by
  have hne : ∀ x, ¬W x → x ≠ a := fun x hx heq => hx (heq.symm ▸ hW)
  refine ⟨write_keeps_wf h.wf a b, write_keeps_wf h.wf' a b, fun x hx => ?_, fun x hx => ?_, fun x hx => ?_⟩
  · rw [read_write_other h.wf (hne x hx), h.out x hx]
  · rw [read_write_other h.wf' (hne x hx), h.out' x hx]
  · by_cases heq : x = a
    · rw [heq] at hx ⊢
      by_cases ha : a < 2 ^ 32
      · rw [read_write_same h.wf ha, read_write_same h.wf' ha]
      · simp only [Memory.write, if_neg ha, h.agree a hx]
    · rw [read_write_other h.wf heq, read_write_other h.wf' heq, h.agree x hx]

theorem Confined.memRead_eq (h : Confined S W m0 m0' m m') {n a : Nat} (ha : ∀ k < n, S (a + k)) :
    memRead c m a n = memRead c m' a n := by
  induction n generalizing a with
  | zero => rfl
  | succ n ih =>
    have hbyte : readByte c m a = readByte c m' a := by simp only [readByte, h.agree a (ha 0 n.succ_pos)]
    have hrest : memRead c m (a + 1) n = memRead c m' (a + 1) n := by
      refine ih fun k hk => ?_
      rw [Nat.add_assoc, Nat.add_comm 1]
      exact ha (k + 1) (Nat.succ_lt_succ hk)
    rw [memRead, memRead, hbyte, hrest]

theorem Confined.memWrite_alike (h : Confined S W m0 m0' m m') {n a : Nat} (v : Nat) (ha : ∀ k < n, W (a + k)) :
    EndAlike (Confined S W m0 m0') (memWrite c m a n v) (memWrite c m' a n v) := by
  induction n generalizing m m' a v with
  | zero => exact h
  | succ n ih =>
    refine EndAlike.bind (R := Confined S W m0 m0') ?_ fun m1 m1' h1 => ih h1 _ fun k hk => ?_
    · unfold writeByte
      split
      · exact h.write (ha 0 n.succ_pos) _
      · exact rfl
    · rw [Nat.add_assoc, Nat.add_comm 1]
      exact ha (k + 1) (Nat.succ_lt_succ hk)

theorem Confined.havocBytes (h : Confined S W m0 m0' m m') (n : Nat) {base k : Nat}
    (hW : ∀ a, base ≤ a → a < base + k → W a) :
    Confined S W m0 m0' (Machine.havocBytes n base k m) (Machine.havocBytes n base k m') := by
  induction k with
  | zero => exact h
  | succ k ih =>
    exact (ih fun a h1 h2 => hW a h1 (by omega)).write (hW _ (Nat.le_add_right _ _) (by omega)) _

theorem Confined.havocRegions (h : Confined S W m0 m0' m m') (n : Nat) {rs : List Region}
    (hW : ∀ a, regionsHave rs a = true → W a) :
    Confined S W m0 m0' (Machine.havocRegions n rs m) (Machine.havocRegions n rs m') := by
  induction rs generalizing m m' with
  | nil => exact h
  | cons r rest ih =>
    obtain ⟨hr, hrest⟩ := (forall_regionsHave_cons r rest W).1 hW
    exact ih (h.havocBytes n fun a h1 h2 => hr a ((regionHas_iff r a).2 ⟨h1, h2⟩)) hrest

theorem memSim_confined (c : Config) (S W : Nat → Prop) (m0 m0' : Memory) : MemSim c S W (Confined S W m0 m0') where
  read h ha := h.memRead_eq ha
  write h ha := h.memWrite_alike _ ha
  havoc n h hW := h.havocRegions n hW

end

/-! ### Elements inside the regions of a command -/

/-- An element that lies inside a region has its bytes among those of the region. -/
theorem elemIn_of_region {S : Nat → Prop} {f : Field} {r : Region} {a : Nat} (h : ∀ b, regionHas r b = true → S b)
    (hlow : r.base ≤ a) (hhigh : a + f.bytes ≤ r.base + r.len) : ElemIn S f a :=
  fun k hk => h (a + k) ((regionHas_iff r (a + k)).2 ⟨by omega, by omega⟩)

/-- Element `i` of a buffer of `n` elements ends within it. -/
theorem elem_end_le {i n : Nat} (hi : i < n) (f : Field) : i * f.bytes + f.bytes ≤ n * f.bytes := row_end_le hi f.bytes

theorem elemIn_of_elemRegion {S : Nat → Prop} {f : Field} {base n i : Nat}
    (h : ∀ b, regionHas (elemRegion f base n) b = true → S b) (hi : i < n) : ElemIn S f (base + i * f.bytes) :=
  elemIn_of_region h (Nat.le_add_right _ _) (by have := elem_end_le hi f; simp only [elemRegion]; omega)

/-- Coefficient (r, j) lies inside the coefficient region (43_pivot_engine.md R191). -/
theorem coefAddr_inside {d : Decoder} {r j : Nat} (hr : r < d.dn.toNat) (hj : j < d.dn.toNat) :
    (coefRegion d).base ≤ coefAddr d r j ∧
      coefAddr d r j + d.dfield.bytes ≤ (coefRegion d).base + (coefRegion d).len := by
  have hrow := row_end_le hr d.dn.toNat
  have helem := elem_end_le (show r * d.dn.toNat + j < d.dn.toNat * d.dn.toNat by omega) d.dfield
  simp only [coefRegion, elemRegion, coefAddr]
  omega

/-- Symbol element (r, k) lies inside the symbol region (43_pivot_engine.md R191). -/
theorem symAddr_inside {d : Decoder} {r k : Nat} (hr : r < d.dn.toNat) (hk : k < symElems d) :
    (symRegion d).base ≤ symAddr d r k ∧
      symAddr d r k + d.dfield.bytes ≤ (symRegion d).base + (symRegion d).len := by
  have hrow := row_end_le hr d.ds.toNat
  have helem := symElem_end_le hk
  simp only [symRegion, symAddr]
  omega

/-- The elements of both matrices of the session have their bytes among `S`. -/
structure MatricesIn (S : Nat → Prop) (d : Decoder) : Prop where
  coef : ∀ {r j : Nat}, r < d.dn.toNat → j < d.dn.toNat → ElemIn S d.dfield (coefAddr d r j)
  sym : ∀ {r k : Nat}, r < d.dn.toNat → k < symElems d → ElemIn S d.dfield (symAddr d r k)

theorem matricesIn_of_regions {S : Nat → Prop} {d : Decoder} (hcoef : ∀ b, regionHas (coefRegion d) b = true → S b)
    (hsym : ∀ b, regionHas (symRegion d) b = true → S b) : MatricesIn S d where
  coef hr hj := elemIn_of_region hcoef (coefAddr_inside hr hj).1 (coefAddr_inside hr hj).2
  sym hr hk := elemIn_of_region hsym (symAddr_inside hr hk).1 (symAddr_inside hr hk).2

/-- The elements of the incoming symbol have their bytes among `S`. -/
def SymbolIn (S : Nat → Prop) (d : Decoder) (sp : Nat) : Prop :=
  ∀ k < symElems d, ElemIn S d.dfield (sp + k * d.dfield.bytes)

theorem symbolIn_of_region {S : Nat → Prop} {d : Decoder} {sp : Nat}
    (h : ∀ b, regionHas ⟨sp, d.ds.toNat⟩ b = true → S b) : SymbolIn S d sp := by
  intro k hk
  have hend := symElem_end_le hk
  exact elemIn_of_region h (Nat.le_add_right _ _) (by simp only; omega)

/-! ### The procedures, on memories that a relation holds together -/

section
variable {c : Config} {S W : Nat → Prop} {R : Memory → Memory → Prop} (sim : MemSim c S W R) {m m' : Memory}
include sim

theorem MemSim.readElems_eq (h : R m m') {f : Field} {addr : Nat → Nat} {n : Nat}
    (ha : ∀ i < n, ElemIn S f (addr i)) : readElems c f m addr n = readElems c f m' addr n :=
  loop_congr (fun i hi xs => by rw [sim.read h (ha i hi)]) []

theorem MemSim.axpy_alike (h : R m m') {f : Field} {dst src sc n : Nat}
    (hdst : ∀ i < n, ElemIn S f (dst + i * f.bytes) ∧ ElemIn W f (dst + i * f.bytes))
    (hsrc : ∀ i < n, ElemIn S f (src + i * f.bytes)) :
    EndAlike R (axpy c f dst src sc n m) (axpy c f dst src sc n m') := by
  refine .loop (fun i hi m m' h => ?_) h
  exact .bind_same (sim.read h (hsrc i hi)) fun _ _ => .bind_same (sim.read h (hdst i hi).1) fun _ _ =>
    sim.write h (hdst i hi).2

theorem MemSim.scale_alike (h : R m m') {f : Field} {dst sc n : Nat}
    (hdst : ∀ i < n, ElemIn S f (dst + i * f.bytes) ∧ ElemIn W f (dst + i * f.bytes)) :
    EndAlike R (scale c f dst sc n m) (scale c f dst sc n m') := by
  refine .loop (fun i hi m m' h => ?_) h
  exact .bind_same (sim.read h (hdst i hi).1) fun _ _ => sim.write h (hdst i hi).2

/-- A running generator state and a memory: the states are equal, and `R` holds the memories together. -/
def FillSim (R : Memory → Memory → Prop) (x x' : BitVec 64 × Memory) : Prop := x.1 = x'.1 ∧ R x.2 x'.2

theorem MemSim.fill_alike {f : Field} {gen : Generator} {out n : Nat} {x x' : BitVec 64 × Memory}
    (h : FillSim R x x') (hout : ∀ i < n, ElemIn W f (out + i * f.bytes)) :
    EndAlike (FillSim R) (loop (fillElem c f gen out) n x) (loop (fillElem c f gen out) n x') := by
  refine .loop (fun i hi y y' hy => ?_) h
  obtain ⟨hg, hm⟩ := hy
  unfold fillElem
  rw [← hg]
  exact (sim.write hm (hout i hi)).bind fun _ _ h' => ⟨rfl, h'⟩

theorem MemSim.fillMasked_alike {f : Field} {gen : Generator} {out mk n : Nat} {x x' : BitVec 64 × Memory}
    (h : FillSim R x x') (hout : ∀ i < n, ElemIn W f (out + i * f.bytes)) (hmk : ∀ i < n, S (mk + i / 8)) :
    EndAlike (FillSim R) (loop (fillMaskedElem c f gen out mk) n x) (loop (fillMaskedElem c f gen out mk) n x') := by
  refine .loop (fun i hi y y' hy => ?_) h
  obtain ⟨hg, hm⟩ := hy
  -- A mask byte is read as an element of GF(2^8) is.
  have hmask : memRead c y.2 (mk + i / 8) 1 = memRead c y'.2 (mk + i / 8) 1 :=
    sim.read (f := .gf8) hm fun k hk => by
      obtain rfl : k = 0 := Nat.lt_one_iff.1 hk
      exact hmk i hi
  unfold fillMaskedElem
  rw [← hg]
  exact .bind_same hmask fun _ _ => (sim.write hm (hout i hi)).bind fun _ _ h' => ⟨rfl, h'⟩

variable {d : Decoder}

theorem MemSim.readRow_eq (h : R m m') (hd : MatricesIn S d) {r : Nat} (hr : r < d.dn.toNat) :
    readRow c d m r = readRow c d m' r :=
  sim.readElems_eq h fun _ hj => hd.coef hr hj

theorem MemSim.scan_eq (h : R m m') (hd : MatricesIn S d) : scan c m d = scan c m' d := by
  -- SCAN changes only STAT, so every row it reads is one of the matrix at its start.
  have halike : EndAlike (fun e e' : Decoder => e = e' ∧ ∃ stat, e = { d with stat := stat }) (scan c m d)
      (scan c m' d) := by
    refine .loop (fun r hr e e' he => ?_) ⟨rfl, d.stat, rfl⟩
    obtain ⟨rfl, stat, rfl⟩ := he
    have hrow : readRow c { d with stat := stat } m r = readRow c { d with stat := stat } m' r :=
      sim.readRow_eq (d := { d with stat := stat }) h ⟨hd.coef, hd.sym⟩ hr
    unfold scanRow
    split
    · refine .bind_same hrow fun row _ => ?_
      split
      · exact ⟨rfl, _, rfl⟩
      · exact ⟨rfl, stat, rfl⟩
    · exact ⟨rfl, stat, rfl⟩
  cases hx : scan c m d with
  | ok e =>
    obtain ⟨e', he', rfl, -⟩ := halike.exists_ok hx
    exact he'.symm
  | error e => exact (halike.error_eq hx).symm

theorem MemSim.forward_eq (h : R m m') (hd : MatricesIn S d) (v : List Nat) : forward c d m v = forward c d m' v := by
  refine loop_congr (fun p hp x => ?_) _
  simp only [forwardStep, sim.read h (hd.coef hp hp), sim.readRow_eq h hd hp]

theorem MemSim.reducedSymbol_eq (h : R m m') (hd : MatricesIn S d) {sp : Nat} (hsp : SymbolIn S d sp) (fs : List Nat)
    {k : Nat} (hk : k < symElems d) : reducedSymbol c d fs sp k m = reducedSymbol c d fs sp k m' := by
  unfold reducedSymbol
  rw [sim.read h (hsp k hk)]
  refine congrArg _ (funext fun t => loop_congr (fun p hp t' => ?_) t)
  rw [sim.read h (hd.sym hp hk)]

variable (hS : MatricesIn S d) (hW : MatricesIn W d)
include hS hW

theorem MemSim.insertRow_alike (h : R m m') {sp : Nat} (hsp : SymbolIn S d sp) {col : Nat} (hcol : col < d.dn.toNat)
    (v fs : List Nat) : EndAlike R (insertRow c d col v fs sp m) (insertRow c d col v fs sp m') := by
  refine .bind (R := R) (.loop (fun j hj m m' h => ?_) h) fun m m' h => .loop (fun k hk m m' h => ?_) h
  · exact sim.write h (hW.coef hcol hj)
  · exact .bind_same (sim.reducedSymbol_eq h hS hsp fs hk) fun _ _ => sim.write h (hW.sym hcol hk)

omit hS in
theorem MemSim.insertUnitRow_alike (h : R m m') {sp : Nat} (hsp : SymbolIn S d sp) {i : Nat} (hi : i < d.dn.toNat) :
    EndAlike R (insertUnitRow c d i sp m) (insertUnitRow c d i sp m') := by
  refine .bind (R := R) (.loop (fun j hj m m' h => ?_) h) fun m m' h => .loop (fun k hk m m' h => ?_) h
  · exact sim.write h (hW.coef hi hj)
  · exact .bind_same (sim.read h (hsp k hk)) fun _ _ => sim.write h (hW.sym hi hk)

omit hS hW in
theorem MemSim.backsubElem_alike (h : R m m') {f : Field} {target source : Nat}
    (ht : ElemIn S f target ∧ ElemIn W f target) (hs : ElemIn S f source) (g : Nat) :
    EndAlike R (backsubElem c f g target source m) (backsubElem c f g target source m') :=
  .bind_same (sim.read h ht.1) fun _ _ => .bind_same (sim.read h hs) fun _ _ => sim.write h ht.2

theorem MemSim.backsub_alike (h : R m m') {col : Nat} (hcol : col < d.dn.toNat) :
    EndAlike R (backsub c d col m) (backsub c d col m') := by
  refine .loop (fun r hr m m' h => ?_) h
  unfold backsubRow
  split
  · refine .bind_same (sim.read h (hS.coef hr hcol)) fun g _ => ?_
    split
    · refine .bind (.loop (fun j hj _ _ h => ?_) h) fun _ _ h => .loop (fun k hk _ _ h => ?_) h
      · exact sim.backsubElem_alike h ⟨hS.coef hr hj, hW.coef hr hj⟩ (hS.coef hcol hj) g
      · exact sim.backsubElem_alike h ⟨hS.sym hr hk, hW.sym hr hk⟩ (hS.sym hcol hk) g
    · exact h
  · exact h

end

end Sys2Proof.Machine

/-! PROOFS. Two runs of a command, on states that differ in their live operands, CTRL and memory only, end alike: a command
depends on its latched operands and on the bytes of its buffers (44_engine_control.md R231, 20_memory.md R61). -/

namespace Sys2Proof.Machine

/-- What command `i` does after its checks (44_engine_control.md R233). -/
def commandBody (i : Instr) (s : State) (l : Latched) : Except ErrorCode State :=
  match i with
  | .nop => .ok s
  | .gfAdd _ => .ok (withRes (gfAdd l.ops.a0.toNat l.ops.a1.toNat) s)
  | .gfMul f => .ok (withRes (gfMul s.config f l.ops.a0.toNat l.ops.a1.toNat) s)
  | .gfDiv f => .ok (withRes (gfDiv s.config f l.ops.a0.toNat l.ops.a1.toNat) s)
  | .gfInv f => .ok (withRes (gfInv s.config f l.ops.a0.toNat) s)
  | .rowAxpy f => do
    let m ← axpy s.config f l.ops.a0.toNat l.ops.a1.toNat l.ops.a3.toNat (l.ops.a2.toNat / f.bytes) s.memory
    .ok { s with memory := m }
  | .rowScale f => do
    let m ← scale s.config f l.ops.a0.toNat l.ops.a3.toNat (l.ops.a2.toNat / f.bytes) s.memory
    .ok { s with memory := m }
  | .genSeed => .ok { s with gen := { s.gen with gstate := seedState l.ops.a0 } }
  | .genDensity =>
    .ok { s with
      gen := { s.gen with
        gdens := l.ops.a0
        gfull := (threshold l.ops.a0).1
        gt := (threshold l.ops.a0).2 } }
  | .genFill f => do
    let x ← loop (fillElem s.config f s.gen l.ops.a0.toNat) l.ops.a1.toNat (s.gen.gstate, s.memory)
    .ok (withFill s x)
  | .genFillPartial f => do
    let x ← loop (fillMaskedElem s.config f s.gen l.ops.a0.toNat l.ops.a2.toNat) l.ops.a1.toNat
      (s.gen.gstate, s.memory)
    .ok (withFill s x)
  | .decInit f => .ok { s with dec := initDecoder s.config f l.ops }
  | .decConsume _ => do
    let v ← readElems s.config s.dec.dfield s.memory (fun j => l.ops.a0.toNat + j * s.dec.dfield.bytes)
      s.dec.dn.toNat
    consumeRow s l v l.ops.a1.toNat
  | .decConsumeSys _ => consumeUnit s l l.ops.a0.toNat l.ops.a1.toNat
  | .decUpdateStatus _ => do
    let d ← scan s.config s.memory s.dec
    .ok { s with dec := updateCounts d }
  | .decQuery _ => .ok (withRes (statCode (statAt s.dec l.ops.a0.toNat)) s)

/-- Every command runs its body between its checks and its end. -/
theorem exec_eq_commandBody (i : Instr) (s : State) : exec i s = runCommand i s (commandBody i s) := by
  cases i <;> rfl

/-- A body that succeeds changes only results. -/
theorem commandBody_changesOnlyResults {i : Instr} {s u : State} {l : Latched} (h : commandBody i s l = .ok u) :
    ChangesOnlyResults s u := by
  cases i with
  | decConsume f =>
    obtain ⟨v, -, h⟩ := exists_of_bind_eq_ok h
    exact consumeRow_changesOnlyResults h
  | decConsumeSys f => exact consumeUnit_changesOnlyResults h
  | rowAxpy f | rowScale f | genFill f | genFillPartial f | decUpdateStatus f =>
    obtain ⟨x, -, h⟩ := exists_of_bind_eq_ok h
    exact Except.ok.inj h ▸ rfl
  | nop | genSeed | genDensity | gfAdd f | gfMul f | gfDiv f | gfInv f | decInit f | decQuery f =>
    exact Except.ok.inj h ▸ rfl

/-! ### Bodies on states that a relation holds together -/

/-- `u'` is `u` with the live registers `o` and `k`, the engine `e`, and a memory that `R` relates to that of `u`. -/
def StateSim (R : Memory → Memory → Prop) (o : Operands) (k : Ctrl) (e : Engine) (u u' : State) : Prop :=
  u' = { u with ops := o, ctrl := k, eng := e, memory := u'.memory } ∧ R u.memory u'.memory

/-- `s` with other live registers, engine and memory. -/
def withLive (o : Operands) (k : Ctrl) (e : Engine) (m : Memory) (s : State) : State :=
  { s with ops := o, ctrl := k, eng := e, memory := m }

theorem FillSim.withFill {R : Memory → Memory → Prop} {x x' : BitVec 64 × Memory} (h : FillSim R x x') (o : Operands)
    (k : Ctrl) (e : Engine) (s : State) (m : Memory) :
    StateSim R o k e (Machine.withFill s x) (Machine.withFill (withLive o k e m s) x') := by
  obtain ⟨g, m1⟩ := x
  obtain ⟨g', m1'⟩ := x'
  obtain ⟨rfl, hm⟩ : g = g' ∧ R m1 m1' := h
  exact ⟨rfl, hm⟩

section
variable {S W : Nat → Prop} {R : Memory → Memory → Prop} {s : State} {m m' : Memory} {l l' : Latched}
  (sim : MemSim s.config S W R) (o : Operands) (k : Ctrl) (e : Engine)

include sim in
theorem MemSim.finishConsume_alike (h : R m m') (m0 : Memory) {d : Decoder} (hd : MatricesIn S d) (su dep : Bool)
    (res : Nat) : EndAlike (StateSim R o k e) (finishConsume s su dep res d m)
      (finishConsume (withLive o k e m0 s) su dep res d m') := by
  unfold finishConsume
  cases su with
  | false => exact ⟨rfl, h⟩
  | true =>
    refine .bind_same (sim.scan_eq h hd) fun d' _ => ?_
    exact ⟨rfl, h⟩

variable (hS : MatricesIn S s.dec) (hW : MatricesIn W s.dec) (hm : R s.memory m') {sp : Nat}
  (hsp : SymbolIn S s.dec sp) (hsu : l'.su = l.su)
include sim hS hW hm hsp hsu

theorem MemSim.consumeRow_alike {v : List Nat} (hv : v.length ≤ s.dec.dn.toNat) :
    EndAlike (StateSim R o k e) (consumeRow s l v sp) (consumeRow (withLive o k e m' s) l' v sp) := by
  unfold consumeRow
  refine .bind_same (sim.forward_eq hm hS v) fun x hx => ?_
  obtain ⟨w, fs⟩ := x
  have hlen : w.length ≤ s.dec.dn.toNat := (forward_length_le hx).trans hv
  rw [hsu]
  dsimp only
  split
  · exact sim.finishConsume_alike o k e hm m' hS _ _ _
  · next col hfind =>
    have hcol : col < s.dec.dn.toNat := (List.findIdx?_eq_some_iff_getElem.1 hfind).1.trans_le hlen
    have hdec : (withLive o k e m' s).dec = s.dec := rfl
    rw [hdec]
    by_cases hp : pivAt s.dec col = true
    · rw [if_pos hp, if_pos hp]
      exact rfl
    · rw [if_neg hp, if_neg hp]
      refine .bind (sim.insertRow_alike hS hW hm hsp hcol w fs) fun m1 m1' h1 => ?_
      refine .bind (sim.backsub_alike (d := addPivot s.dec col) ⟨hS.coef, hS.sym⟩ ⟨hW.coef, hW.sym⟩ h1 hcol)
        fun m2 m2' h2 => ?_
      exact sim.finishConsume_alike o k e h2 m' (d := setStat (addPivot s.dec col) col _) ⟨hS.coef, hS.sym⟩ _ _ _

theorem MemSim.consumeUnit_alike {i : Nat} (hi : i < s.dec.dn.toNat) (hdup : l'.sysdup = l.sysdup) :
    EndAlike (StateSim R o k e) (consumeUnit s l i sp) (consumeUnit (withLive o k e m' s) l' i sp) := by
  unfold consumeUnit
  rw [hdup]
  have hdec : (withLive o k e m' s).dec = s.dec := rfl
  rw [hdec, hsu]
  by_cases hp : pivAt s.dec i = true
  · rw [if_pos hp, if_pos hp]
    cases l.sysdup with
    | true => exact sim.consumeRow_alike o k e hS hW hm hsp hsu (unitVector_length _ i).le
    | false => exact sim.finishConsume_alike o k e hm m' hS _ _ _
  · rw [if_neg hp, if_neg hp]
    refine .bind (sim.insertUnitRow_alike hW hm hsp hi) fun m1 m1' h1 => ?_
    refine .bind (sim.backsub_alike (d := addPivot s.dec i) ⟨hS.coef, hS.sym⟩ ⟨hW.coef, hW.sym⟩ h1 hi)
      fun m2 m2' h2 => ?_
    exact sim.finishConsume_alike o k e h2 m' (d := setStat (addPivot s.dec i) i _) ⟨hS.coef, hS.sym⟩ _ _ _

end

/-- Element `i` of ROW_AXPY and ROW_SCALE lies inside a buffer of A2 bytes (41_row_combiner.md R141, R142). -/
theorem elemIn_of_rowRegion {S : Nat → Prop} {f : Field} {base len i : Nat}
    (h : ∀ b, regionHas ⟨base, len⟩ b = true → S b) (hi : i < len / f.bytes) : ElemIn S f (base + i * f.bytes) := by
  have hend := (elem_end_le hi f).trans (Nat.div_mul_le_self _ _)
  exact elemIn_of_region h (Nat.le_add_right _ _) (by simp only; omega)

/-- Two runs of a command's body whose checks hold, on memories that read alike in its buffers and are written alike in
those it writes, end alike. -/
theorem commandBody_alike {S W : Nat → Prop} {R : Memory → Memory → Prop} {i : Instr} {s : State} {l : Latched}
    {m' : Memory} (sim : MemSim s.config S W R) (o : Operands) (k : Ctrl) (e : Engine)
    (hpass : checksPass i l s = true)
    (hS : ∀ a, regionsHave (readBuffers i l s.dec ++ writeBuffers i l s.dec) a = true → S a)
    (hW : ∀ a, regionsHave (writeBuffers i l s.dec) a = true → W a) (hm : R s.memory m') :
    EndAlike (StateSim R o k e) (commandBody i s l) (commandBody i (withLive o k e m' s) l) := by
  cases i <;> simp only [readBuffers, writeBuffers, List.cons_append, List.nil_append, forall_regionsHave_cons,
    forall_regionsHave_nil, and_true] at hS hW
  case rowAxpy f =>
    obtain ⟨hdst, hsrc, -⟩ := hS
    exact (sim.axpy_alike hm (fun i hi => ⟨elemIn_of_rowRegion hdst hi, elemIn_of_rowRegion hW hi⟩)
      fun i hi => elemIn_of_rowRegion hsrc hi).bind fun _ _ h => ⟨rfl, h⟩
  case rowScale f =>
    exact (sim.scale_alike hm fun i hi => ⟨elemIn_of_rowRegion hS.1 hi, elemIn_of_rowRegion hW hi⟩).bind
      fun _ _ h => ⟨rfl, h⟩
  case genFill f =>
    refine (sim.fill_alike (x := (s.gen.gstate, s.memory)) (x' := (s.gen.gstate, m')) ⟨rfl, hm⟩
      fun i hi => elemIn_of_elemRegion hW hi).bind fun x x' hx => ?_
    exact hx.withFill o k e s m'
  case genFillPartial f =>
    refine (sim.fillMasked_alike (x := (s.gen.gstate, s.memory)) (x' := (s.gen.gstate, m')) ⟨rfl, hm⟩
      (fun i hi => elemIn_of_elemRegion hW hi) fun i hi => ?_).bind fun x x' hx => ?_
    · exact hS.1 _ ((regionHas_iff _ _).2 ⟨by simp [fillMask], by simp only [fillMask]; omega⟩)
    · exact hx.withFill o k e s m'
  case decUpdateStatus f =>
    refine .bind_same (sim.scan_eq hm (matricesIn_of_regions hS.1 hS.2)) fun d _ => ⟨rfl, hm⟩
  case decConsume f =>
    obtain ⟨hvec, hsym, -, -, hmat⟩ := hS
    refine .bind_same (sim.readElems_eq hm fun i hi => elemIn_of_elemRegion hvec hi) fun v hv => ?_
    exact sim.consumeRow_alike o k e (matricesIn_of_regions hmat.1 hmat.2) (matricesIn_of_regions hW.1 hW.2) hm
      (symbolIn_of_region hsym) rfl (readElems_length hv).le
  case decConsumeSys f =>
    obtain ⟨hsym, -, -, hmat⟩ := hS
    have hindex : (decide (s.dec.dn.toNat ≤ l.ops.a0.toNat) || !inRange (consumeSymbol s.dec l)) = false :=
      check_of_checksPass hpass (e := .range) (by simp [checks, decConsumeSysChecks])
    simp only [Bool.or_eq_false_iff, decide_eq_false_iff_not, not_le] at hindex
    exact sim.consumeUnit_alike o k e (matricesIn_of_regions hmat.1 hmat.2) (matricesIn_of_regions hW.1 hW.2) hm
      (symbolIn_of_region hsym) rfl hindex.1 rfl
  -- The commands that access no memory.
  all_goals exact ⟨rfl, hm⟩

/-! ### The ends of both runs -/

section
variable {S W : Nat → Prop} {R : Memory → Memory → Prop} {s u u' : State} {o : Operands} {k : Ctrl} {e : Engine}
  {m' : Memory} (sim : MemSim s.config S W R)
include sim

theorem StateSim.havoc {rs : List Region} (h : StateSim R o k e u u') (hW : ∀ a, regionsHave rs a = true → W a) :
    StateSim R o k e (Machine.havoc rs u) (Machine.havoc rs u') := by
  obtain ⟨hu, hm⟩ := h
  generalize u'.memory = m' at hu hm
  subst hu
  cases rs with
  | nil => exact ⟨rfl, hm⟩
  | cons r rest => exact ⟨rfl, sim.havoc u.fresh hm hW⟩

theorem StateSim.disturb {i : Instr} {l : Latched} (h : StateSim R o k e u u')
    (hW : ∀ a, regionsHave (writesOf i l s) a = true → W a) :
    StateSim R o k e (Machine.disturb i l s u) (Machine.disturb i l (withLive o k e m' s) u') := by
  have hsame : disturbed i l (withLive o k e m' s) = disturbed i l s := by cases i <;> rfl
  have hwrites : writesOf i l (withLive o k e m' s) = writesOf i l s := by cases i <;> rfl
  unfold Machine.disturb
  rw [hsame, hwrites]
  split
  · exact h.havoc sim hW
  · exact h

end

end Sys2Proof.Machine

/-! PROOFS. What every command leaves alone, and what it depends on (20_memory.md R61, 44_engine_control.md R231,
60_exceptions.md R245). -/

namespace Sys2Proof.Machine

section
variable {S W : Nat → Prop} {R : Memory → Memory → Prop} {s u u' : State} {o : Operands} {k : Ctrl} {e : Engine}
  {m' : Memory}

theorem StateSim.complete (h : StateSim R o k e u u') : StateSim R o k .idle (Machine.complete u) (Machine.complete u') := by
  obtain ⟨hu, hm⟩ := h
  generalize u'.memory = m' at hu hm
  subst hu
  exact ⟨rfl, hm⟩

theorem StateSim.raiseError (h : StateSim R o k e u u') (err : ErrorCode) (l : Latched) :
    StateSim R o k .idle (Machine.raiseError err l u) (Machine.raiseError err l u') := by
  obtain ⟨hu, hm⟩ := h
  generalize u'.memory = m' at hu hm
  subst hu
  exact ⟨rfl, hm⟩

/-- Two bodies that end alike bring their commands to ends that are alike. -/
theorem conclude_alike (sim : MemSim s.config S W R) {i : Instr} {l : Latched} {x x' : Except ErrorCode State}
    (h : EndAlike (StateSim R o k e) x x') (hm : R s.memory m') (hW : ∀ a, regionsHave (writesOf i l s) a = true → W a) :
    StateSim R o k .idle (conclude i l s x) (conclude i l (withLive o k e m' s) x') := by
  have hstart : StateSim R o k e s (withLive o k e m' s) := ⟨rfl, hm⟩
  have hwrites : writesOf i l (withLive o k e m' s) = writesOf i l s := by cases i <;> rfl
  have hsession : StateSim R o k e (endSession i s) (endSession i (withLive o k e m' s)) := by
    cases i <;> exact ⟨rfl, hm⟩
  cases x with
  | ok t =>
    obtain ⟨t', rfl, ht⟩ := h.exists_ok rfl
    exact (ht.disturb sim hW).complete
  | error err =>
    rw [h.error_eq rfl]
    cases err with
    | bus =>
      simp only [conclude, hwrites]
      exact (hsession.havoc sim hW).raiseError .bus l
    | _ => exact (hstart.disturb sim hW).raiseError _ l

/-- Every command in flight ends alike on states that differ in their live operands, CTRL and engine, and in memories
that read alike in its buffers. -/
theorem exec_alike (sim : MemSim s.config S W R) {i : Instr} {l : Latched} {t : State} (o : Operands) (k : Ctrl)
    (hl : s.eng = .busy l) (hS : ∀ a, regionsHave (readBuffers i l s.dec ++ writeBuffers i l s.dec) a = true → S a)
    (hW : ∀ a, regionsHave (writeBuffers i l s.dec) a = true → W a) (hm : R s.memory m') (h : exec i s = .next t) :
    ∃ t', exec i (withLive o k (.busy l) m' s) = .next t' ∧ StateSim R o k .idle t t' := by
  have hwrites : ∀ a, regionsHave (writesOf i l s) a = true → W a := by
    unfold writesOf
    split
    · exact hW
    · exact fun a ha => by simp [regionsHave] at ha
  have hchecks : checks i l (withLive o k (.busy l) m' s) = checks i l s := by cases i <;> rfl
  rw [exec_eq_commandBody, runCommand, hl] at h
  obtain rfl := Host.Outcome.next.inj h
  refine ⟨_, by rw [exec_eq_commandBody]; rfl, conclude_alike sim ?_ hm hwrites⟩
  rw [hchecks]
  cases hcheck : firstError (checks i l s) with
  | some err => exact rfl
  | none =>
    have hpass : checksPass i l s = true := by rw [checksPass, hcheck, Option.isNone_none]
    exact commandBody_alike sim o k (.busy l) hpass hS hW hm

end

theorem idle_or_busy (s : State) : s.eng = .idle ∨ ∃ l, s.eng = .busy l := by
  cases s.eng with
  | idle => exact .inl rfl
  | busy l => exact .inr ⟨l, rfl⟩

/-- With no command in flight a command does nothing. -/
theorem exec_of_idle {i : Instr} {s : State} (h : s.eng = .idle) : exec i s = .next s := by
  rw [exec_eq_commandBody, runCommand_idle h]

/-- A command writes only bytes of its buffers, and keeps the canonical form: its run is one with itself. -/
theorem exec_memory {i : Instr} {s t : State} {l : Latched} (hwf : Memory.wf s.memory) (hl : s.eng = .busy l)
    (h : exec i s = .next t) :
    Memory.wf t.memory ∧
      ∀ a, regionsHave (writeBuffers i l s.dec) a = false → Memory.read t.memory a = Memory.read s.memory a := by
  obtain ⟨t', -, -, hconf⟩ := exec_alike
    (memSim_confined s.config (fun _ => True) (fun a => regionsHave (writeBuffers i l s.dec) a = true) s.memory s.memory)
    s.ops s.ctrl hl (fun _ _ => trivial) (fun _ ha => ha) (.start hwf hwf fun _ _ => rfl) h
  exact ⟨hconf.wf, fun a ha => hconf.out a (ne_true_of_eq_false ha)⟩

/-- Settles O43: the frame of `exec_memory`. -/
theorem engineWritesOnlyItsBuffers : Obligations.EngineWritesOnlyItsBuffers := by
  intro i s t l hwf hl h
  exact (exec_memory hwf hl h).2

/-- A command changes neither the configuration, the live operands, CTRL, the reset input, nor what is pending
(44_engine_control.md R231). -/
theorem exec_keeps {i : Instr} {s t : State} (h : exec i s = .next t) :
    t.config = s.config ∧ t.ops = s.ops ∧ t.ctrl = s.ctrl ∧ t.inReset = s.inReset ∧ t.inputs = s.inputs := by
  obtain hl | ⟨l, hl⟩ := idle_or_busy s
  · obtain rfl := Host.Outcome.next.inj ((exec_of_idle hl).symm.trans h)
    exact ⟨rfl, rfl, rfl, rfl, rfl⟩
  · rw [exec_eq_commandBody] at h
    obtain ⟨e, -, rfl⟩ | ⟨-, e, -, -, rfl⟩ | ⟨-, -, rfl⟩ | ⟨-, u, hbody, rfl⟩ := runCommand_cases hl h
    · exact ⟨rfl, rfl, rfl, rfl, rfl⟩
    · simp
    · simp
    · have hu : ChangesOnlyResults s u := commandBody_changesOnlyResults hbody
      simp only [complete_config, complete_ops, complete_ctrl, complete_inReset, complete_inputs, disturb_config,
        disturb_ops, disturb_ctrl, disturb_inReset, disturb_inputs]
      rw [hu]
      exact ⟨rfl, rfl, rfl, rfl, rfl⟩

/-- A command in flight leaves the engine idle (44_engine_control.md R233). -/
theorem exec_idle {i : Instr} {s t : State} {l : Latched} (hl : s.eng = .busy l) (h : exec i s = .next t) :
    t.eng = .idle := by
  rw [exec_eq_commandBody] at h
  exact (runCommand_ends hl h).2

/-- Settles O44: two runs on memories that agree on the buffers keep agreeing there (`exec_alike`, `Confined`). -/
theorem engineReadsOnlyItsBuffers : Obligations.EngineReadsOnlyItsBuffers := by
  intro i s t l m hwf hwf' hl hagree h
  obtain ⟨t', ht', hsame, hconf⟩ := exec_alike
    (memSim_confined s.config (fun a => regionsHave (readBuffers i l s.dec ++ writeBuffers i l s.dec) a = true)
      (fun a => regionsHave (writeBuffers i l s.dec) a = true) s.memory m)
    s.ops s.ctrl hl (fun _ ha => ha) (fun _ ha => ha) (.start hwf hwf' fun a ha => (hagree a ha).symm) h
  obtain ⟨-, hops, hctrl, -⟩ := exec_keeps h
  rw [withLive, ← hl] at ht'
  rw [← hops, ← hctrl, ← exec_idle hl h] at hsame
  exact ⟨t'.memory, hsame ▸ ht', fun a ha => (hconf.agree a ha).symm⟩

/-- Settles O8: a run on a state with other live registers is alike, with equal memories. -/
theorem commandsIgnoreLiveOperandsAndCtrl : Obligations.CommandsIgnoreLiveOperandsAndCtrl := by
  intro i s t o k h
  obtain ⟨-, hops, hctrl, -⟩ := exec_keeps h
  refine ⟨hops, hctrl, ?_⟩
  obtain hl | ⟨l, hl⟩ := idle_or_busy s
  · obtain rfl := Host.Outcome.next.inj ((exec_of_idle hl).symm.trans h)
    exact exec_of_idle (s := { s with ops := o, ctrl := k }) hl
  · obtain ⟨t', ht', hsame, hmem⟩ :=
      exec_alike (memSim_eq s.config) o k hl (fun _ _ => trivial) (fun _ _ => trivial) rfl h
    rw [withLive, ← hl] at ht'
    rw [← hmem, ← exec_idle hl h] at hsame
    exact ht'.trans (congrArg _ hsame)

/-- Settles O41: without a bus error and without a success, the end is `raiseError` on the old state. -/
theorem errorsArePrecise : Obligations.ErrorsArePrecise := by
  intro i s t l hl hquiet hok h herr hcode
  rw [exec_eq_commandBody] at h
  obtain ⟨e, -, rfl⟩ | ⟨-, e, -, -, rfl⟩ | ⟨-, -, rfl⟩ | ⟨-, u, hbody, rfl⟩ := runCommand_cases hl h
  · rfl
  · rw [disturb_of_undisturbed hquiet]
    rfl
  · exact absurd rfl hcode
  · have hstatus : u.status = s.status := (commandBody_changesOnlyResults hbody).status_eq
    simp only [complete_status, disturb_status, hstatus, hok, Bool.false_eq_true] at herr

end Sys2Proof.Machine

/-! PROOFS. What one step can do, said once: the engine's move, and what each input does (44_engine_control.md R233-R237,
20_memory.md R73, 70_reset_and_hazards.md R271). -/

namespace Sys2Proof.Machine

theorem step_of_input {s : State} {i : Input} {rest : List Input} (h : s.inputs = i :: rest) :
    step s = inputStep i { s with inputs := rest } := by
  simp only [step, advance, h]

/-- When the engine moves next, the step is its move, its turn taken off the inputs. -/
theorem step_of_engineNext {s : State} (h : engineNext s) : step s = engineStep { s with inputs := s.inputs.tail } := by
  cases hin : s.inputs with
  | nil =>
    simp only [step, advance, hin, List.tail_nil]
    rw [← hin]
  | cons i rest =>
    obtain hnil | hhead := h
    · exact absurd (hin.symm.trans hnil) (List.cons_ne_nil i rest)
    · rw [hin, List.head?_cons, Option.some.injEq] at hhead
      rw [step_of_input hin, hhead]
      rfl

/-! ### The engine's move -/

theorem engineStep_of_reset {s : State} (h : s.inReset = true) : engineStep s = .next s := by
  simp only [engineStep, h, if_true]

theorem engineStep_of_idle {s : State} (h : s.eng = .idle) : engineStep s = .next s := by
  simp only [engineStep, h, ite_self]

section
variable {s : State} {l : Latched} (hreset : s.inReset = false) (hl : s.eng = .busy l)
include hreset hl

theorem engineStep_of_decode {i : Instr} (hi : decode l.cmd = some i) : engineStep s = exec i s := by
  simp only [engineStep, hreset, hl, hi, Bool.false_eq_true, if_false]

theorem engineStep_of_illegal (hi : decode l.cmd = none) : engineStep s = .next (raiseError .illegal l s) := by
  simp only [engineStep, hreset, hl, hi, Bool.false_eq_true, if_false]

end

/-- Everything the engine's move can do: nothing, run the command in flight, or end an illegal word. -/
theorem engineStep_cases {s t : State} (h : engineStep s = .next t) :
    (t = s ∧ (s.inReset = true ∨ s.eng = .idle)) ∨ ∃ l, s.inReset = false ∧ s.eng = .busy l ∧
      ((∃ i, decode l.cmd = some i ∧ exec i s = .next t) ∨ decode l.cmd = none ∧ t = raiseError .illegal l s) := by
  cases hreset : s.inReset with
  | true => exact .inl ⟨(Host.Outcome.next.inj ((engineStep_of_reset hreset).symm.trans h)).symm, .inl rfl⟩
  | false =>
    obtain hl | ⟨l, hl⟩ := idle_or_busy s
    · exact .inl ⟨(Host.Outcome.next.inj ((engineStep_of_idle hl).symm.trans h)).symm, .inr hl⟩
    · refine .inr ⟨l, rfl, hl, ?_⟩
      cases hi : decode l.cmd with
      | some i => exact .inl ⟨i, rfl, (engineStep_of_decode hreset hl hi).symm.trans h⟩
      | none =>
        exact .inr ⟨rfl, (Host.Outcome.next.inj ((engineStep_of_illegal hreset hl hi).symm.trans h)).symm⟩

/-! ### The host's accesses -/

theorem eq_of_portAccess_eq_next {s t u : State} {addr size : Nat} (h : portAccess s addr size t = .next u) : u = t := by
  unfold portAccess at h
  split at h
  · split at h
    · exact (Host.Outcome.next.inj h).symm
    · cases h
  · cases h

theorem eq_of_hostAccess_eq_next {s t u : State} {addr : Nat} (h : hostAccess s addr t = .next u) : u = t := by
  unfold hostAccess at h
  split at h
  · cases h
  · split at h
    · exact (Host.Outcome.next.inj h).symm
    · cases h

/-- A host access to a byte of ordinary memory is given its step (log entry 14). -/
theorem hostAccess_of_admitted {s : State} {addr : Nat}
    (h : (!regionsHave s.config.devices addr && memOk s.config addr) = true) (t : State) :
    hostAccess s addr t = .next t := by
  obtain ⟨hdev, hok⟩ := Bool.and_eq_true_iff.1 h
  rw [Bool.not_eq_true'] at hdev
  simp only [hostAccess, hdev, hok, Bool.false_eq_true, if_false, if_true]

/-- What a register write can do: a reset, an issue, a STATUS write, new values of CTRL and A0-A3, or nothing. -/
theorem writeReg_cases (off : Nat) (v : Word) (s : State) :
    writeReg off v s = reset s ∨ writeReg off v s = issue v s ∨ writeReg off v s = writeStatus v s ∨
      ∃ k o, writeReg off v s = { s with ctrl := k, ops := o } := by
  unfold writeReg
  split
  · split
    · exact .inl rfl
    · exact .inr (.inr (.inr ⟨_, _, rfl⟩))
  · exact .inr (.inr (.inl rfl))
  · exact .inr (.inl rfl)
  all_goals exact .inr (.inr (.inr ⟨_, _, rfl⟩))

/-- What a CMD write can do: it is refused, or accepted by an idle block without error (44_engine_control.md R231,
R232). -/
theorem issue_cases (w : Word) (s : State) :
    issue w s = refuseCommand s ∨ s.eng = .idle ∧ s.status.err = false ∧ issue w s = acceptCommand w s := by
  obtain hl | ⟨l, hl⟩ := idle_or_busy s
  · cases herr : s.status.err with
    | true => exact .inl (issue_of_busy_or_err (.inr herr) w)
    | false => exact .inr ⟨hl, rfl, issue_of_idle hl herr w⟩
  · exact .inl (issue_of_busy_or_err (.inl (by simp only [isBusy, hl])) w)

/-! ### The whole step -/

/-- What a step does to the state `s` that its input, or the engine's turn, has been taken off. -/
inductive Move (s : State) : State → Prop
  | engine {t : State} (h : engineStep s = .next t) : Move s t
  | read (v : Word) : Move s { s with hostData := some v }
  | racedRead {a : Nat} (v : Word) (h : regionsHave (writesInFlight s) a = true) :
      Move s { s with hostData := some v, fresh := s.fresh + 1, raced := true }
  | regWrite (off : Nat) (v : Word) (h : s.inReset = false) : Move s { writeReg off v s with hostData := none }
  | ignoredWrite : Move s { s with hostData := none }
  | memWrite (a : Nat) (b : Byte) : Move s { s with
      memory := Memory.write s.memory a b
      hostData := none
      raced := s.raced || regionsHave (touchesInFlight s) a }
  | resetPin (b : Bool) : Move s (setResetPin b s)

theorem move_of_inputStep {s t : State} {i : Input} (h : inputStep i s = .next t) : Move s t := by
  cases i with
  | engine => exact .engine h
  | regRead addr size =>
    obtain rfl := eq_of_portAccess_eq_next h
    exact .read _
  | regWrite addr size v =>
    obtain rfl := eq_of_portAccess_eq_next h
    cases hreset : s.inReset with
    | true => exact .ignoredWrite
    | false => exact .regWrite _ v hreset
  | memRead addr =>
    obtain rfl := eq_of_hostAccess_eq_next h
    split
    · next hraced => exact .racedRead _ hraced
    · exact .read _
  | memWrite addr b =>
    obtain rfl := eq_of_hostAccess_eq_next h
    exact .memWrite addr b
  | resetPin b =>
    obtain rfl := Host.Outcome.next.inj h
    exact .resetPin b

/-- Every step is a move from the state that its input has been taken off. -/
theorem move_of_step {s t : State} (h : step s = .next t) : Move { s with inputs := s.inputs.tail } t := by
  cases hin : s.inputs with
  | nil =>
    rw [step_of_engineNext (.inl hin), hin] at h
    exact .engine h
  | cons i rest =>
    rw [step_of_input hin] at h
    exact move_of_inputStep h

/-! ### The configuration, the decoder, the generator and memory -/

theorem havoc_memory_congr {s u : State} (hm : u.memory = s.memory) (hf : u.fresh = s.fresh) (rs : List Region) :
    (havoc rs u).memory = (havoc rs s).memory := by
  cases rs with
  | nil => exact hm
  | cons r rest => simp only [havoc, hm, hf]

/-- What a step can do to the configuration, the decoder, the generator and memory: a command in flight runs; the block
is reset; or they stay, but for one byte that the host stores. -/
theorem step_cases {s t : State} (h : step s = .next t) :
    (∃ i l, s.eng = .busy l ∧ exec i { s with inputs := s.inputs.tail } = .next t) ∨
    (t.config = s.config ∧ t.dec = Decoder.reset s.config.nmax ∧ t.gen = Generator.reset ∧
      t.memory = (abortInFlight s).memory) ∨
    (t.config = s.config ∧ t.dec = s.dec ∧ t.gen = s.gen ∧
      (t.memory = s.memory ∨ ∃ a b, t.memory = Memory.write s.memory a b)) := by
  have hreset : ∀ u : State, u = { s with inputs := s.inputs.tail } →
      (reset u).config = s.config ∧ (reset u).dec = Decoder.reset s.config.nmax ∧ (reset u).gen = Generator.reset ∧
        (reset u).memory = (abortInFlight s).memory := by
    rintro _ rfl
    have hmem : (abortInFlight { s with inputs := s.inputs.tail }).memory = (abortInFlight s).memory :=
      havoc_memory_congr (s := s) (u := { s with inputs := s.inputs.tail }) rfl rfl (writesInFlight s)
    exact ⟨havoc_config _ _, congrArg (fun c : Config => Decoder.reset c.nmax) (havoc_config _ _), rfl, hmem⟩
  cases move_of_step h with
  | engine h =>
    obtain ⟨rfl, -⟩ | ⟨l, -, hl, ⟨i, -, hi⟩ | ⟨-, rfl⟩⟩ := engineStep_cases h
    · exact .inr (.inr ⟨rfl, rfl, rfl, .inl rfl⟩)
    · exact .inl ⟨i, l, hl, hi⟩
    · exact .inr (.inr ⟨rfl, rfl, rfl, .inl rfl⟩)
  | read v => exact .inr (.inr ⟨rfl, rfl, rfl, .inl rfl⟩)
  | racedRead v h => exact .inr (.inr ⟨rfl, rfl, rfl, .inl rfl⟩)
  | ignoredWrite => exact .inr (.inr ⟨rfl, rfl, rfl, .inl rfl⟩)
  | memWrite a b => exact .inr (.inr ⟨rfl, rfl, rfl, .inr ⟨a, b, rfl⟩⟩)
  | resetPin b => exact .inr (.inl (hreset _ rfl))
  | regWrite off v h =>
    obtain hw | hw | hw | ⟨k, o, hw⟩ := writeReg_cases off v { s with inputs := s.inputs.tail } <;> rw [hw]
    · exact .inr (.inl (hreset _ rfl))
    · obtain hi | ⟨-, -, hi⟩ := issue_cases v { s with inputs := s.inputs.tail } <;> rw [hi] <;>
        exact .inr (.inr ⟨rfl, rfl, rfl, .inl rfl⟩)
    · rw [writeStatus_eq]
      exact .inr (.inr ⟨rfl, rfl, rfl, .inl rfl⟩)
    · exact .inr (.inr ⟨rfl, rfl, rfl, .inl rfl⟩)

end Sys2Proof.Machine

/-! PROOFS. What the pivot engine's procedures give when they succeed, and what each command can do to the decoder
(43_pivot_engine.md R195-R201). -/

namespace Sys2Proof.Machine

/-! ### Reads that succeed -/

/-- An element read is the element in memory. -/
theorem eq_of_elemRead_eq_ok {c : Config} {f : Field} {m : Memory} {a x : Nat} (h : elemRead c f m a = .ok x) :
    x = elemAt f m a := by
  by_cases hmap : elemMapped c f a
  · exact Except.ok.inj (h.symm.trans (elemRead_eq hmap m))
  · rw [(okElseBus_elemRead c f m a).2 hmap] at h
    cases h

theorem eq_of_readElems_eq_ok {c : Config} {f : Field} {m : Memory} {addr : Nat → Nat} {n : Nat} {xs : List Nat}
    (h : readElems c f m addr n = .ok xs) : xs = (List.range n).map fun i => elemAt f m (addr i) := by
  refine (okElseBus_loop_of_invariant (fun i ys => ys = (List.range i).map fun j => elemAt f m (addr j))
    (fun i ys _ _ => (okElseBus_elemRead c f m (addr i)).bind_ok fun x => ys ++ [x]) (fun i ys zs hys hzs => ?_)
    rfl).2 xs h
  obtain ⟨x, hx, hzs⟩ := exists_of_bind_eq_ok hzs
  rw [← Except.ok.inj hzs, hys, eq_of_elemRead_eq_ok hx, List.range_succ, List.map_append, List.map_singleton]

/-- A row read is the row in memory (R191). -/
theorem eq_of_readRow_eq_ok {c : Config} {d : Decoder} {m : Memory} {r : Nat} {row : List Nat}
    (h : readRow c d m r = .ok row) : row = (List.range d.dn.toNat).map (coefAt d m r) :=
  eq_of_readElems_eq_ok h

/-- A row's nonzero elements, read or in memory. -/
theorem nonzeros_map_coefAt (d : Decoder) (m : Memory) (r : Nat) :
    nonzeros ((List.range d.dn.toNat).map (coefAt d m r)) = rowNonzeros d m r := by
  rw [nonzeros, List.countP_map]
  rfl

/-! ### SCAN -/

/-- The decoder in the middle of SCAN, before row `i` (R195). -/
def scannedTo (m : Memory) (d : Decoder) (i : Nat) : Decoder :=
  { d with
    stat := d.stat.mapIdx fun r x =>
      if r < i ∧ x = .partiallyDecoded ∧ rowNonzeros d m r = 1 then .decoded else x }

theorem statAt_scannedTo (m : Memory) (d : Decoder) (i r : Nat) :
    statAt (scannedTo m d i) r =
      if r < i ∧ statAt d r = .partiallyDecoded ∧ rowNonzeros d m r = 1 then .decoded else statAt d r := by
  simp only [statAt, scannedTo, List.getD_eq_getElem?_getD, List.getElem?_mapIdx]
  cases d.stat[r]? <;> simp

theorem scannedTo_zero (m : Memory) (d : Decoder) : scannedTo m d 0 = d := by
  have hstat : (scannedTo m d 0).stat = d.stat :=
    List.ext_getElem? fun r => by simp [scannedTo, List.getElem?_mapIdx]
  calc
    scannedTo m d 0 = { d with stat := (scannedTo m d 0).stat } := rfl
    _ = d := by rw [hstat]

/-- SCAN's next row. -/
theorem scannedTo_succ (m : Memory) (d : Decoder) (i : Nat) :
    scannedTo m d (i + 1) =
      if statAt d i = .partiallyDecoded ∧ rowNonzeros d m i = 1 then
        { scannedTo m d i with stat := (scannedTo m d i).stat.set i .decoded }
      else scannedTo m d i := by
  have hstat : (scannedTo m d (i + 1)).stat =
      if statAt d i = .partiallyDecoded ∧ rowNonzeros d m i = 1 then (scannedTo m d i).stat.set i .decoded
      else (scannedTo m d i).stat := by
    refine List.ext_getElem? fun r => ?_
    by_cases hr : r = i
    · subst hr
      cases hx : d.stat[r]? with
      | none =>
        have hlen : d.stat.length ≤ r := List.getElem?_eq_none_iff.1 hx
        split <;> simp [scannedTo, hlen]
      | some x =>
        have hstat : statAt d r = x := by simp [statAt, List.getD_eq_getElem?_getD, hx]
        have hlen : r < d.stat.length := (List.getElem?_eq_some_iff.1 hx).1
        rw [hstat]
        split <;> simp_all [scannedTo]
    · have hlt : r ≤ i ↔ r < i := by omega
      split <;> simp [scannedTo, List.getElem?_mapIdx, List.getElem?_set_ne (Ne.symm hr), hlt]
  split <;> simp_all [scannedTo]

/-- A SCAN that succeeds leaves the decoder that `scanned` says (R195). -/
theorem eq_of_scan_eq_ok {c : Config} {m : Memory} {d d' : Decoder} (h : scan c m d = .ok d') : d' = scanned m d := by
  have hloop : ∀ n e, loop (scanRow c m) n d = .ok e → e = scannedTo m d n := by
    intro n
    induction n with
    | zero =>
      intro e he
      rw [← Except.ok.inj he, scannedTo_zero]
    | succ n ih =>
      intro e he
      obtain ⟨e', he', hrow⟩ := exists_of_bind_eq_ok he
      obtain rfl := ih e' he'
      have hhere : statAt (scannedTo m d n) n = statAt d n := by simp [statAt_scannedTo]
      rw [scanRow, hhere] at hrow
      rw [scannedTo_succ]
      split at hrow
      · next hpart =>
        obtain ⟨row, hread, hrow⟩ := exists_of_bind_eq_ok hrow
        have hcount : nonzeros row = rowNonzeros d m n := by
          rw [eq_of_readRow_eq_ok hread]
          exact nonzeros_map_coefAt d m n
        rw [← Except.ok.inj hrow, hcount]
        simp only [hpart, true_and]
      · next hpart => rw [← Except.ok.inj hrow, if_neg fun h => hpart h.1]
  exact hloop _ _ h

end Sys2Proof.Machine

/-! PROOFS. The ends of the two consumes, and what each command can do to the decoder (43_pivot_engine.md R197-R202,
60_exceptions.md R246). -/

namespace Sys2Proof.Machine

/-! ### The ends of a consume -/

/-- The state of a consume that inserts nothing (43_pivot_engine.md R199, step 2; R200). -/
def discarded (s : State) (su : Bool) : State :=
  { s with
    dec := { updateCounts (scannedIf su s.memory s.dec) with dep := true }
    res := 0xFFFFFFFF }

/-- The state of a consume that inserts a row at column `col`, its symbol of status `x` (R199, step 4; R200). -/
def inserted (s : State) (su : Bool) (col : Nat) (x : SymbolStatus) (m : Memory) : State :=
  { s with
    dec := { updateCounts (scannedIf su m (setStat (addPivot s.dec col) col x)) with dep := false }
    res := BitVec.ofNat 32 col
    memory := m }

/-- The end of a consume scans if SU was latched, and commits (R199, R200). -/
theorem eq_of_finishConsume_eq_ok {s u : State} {su dep : Bool} {res : Nat} {d : Decoder} {m : Memory}
    (h : finishConsume s su dep res d m = .ok u) :
    u = { s with dec := { updateCounts (scannedIf su m d) with dep := dep }, res := BitVec.ofNat 32 res, memory := m } := by
  unfold finishConsume at h
  cases su with
  | false => exact (Except.ok.inj h).symm
  | true =>
    obtain ⟨d', hscan, h⟩ := exists_of_bind_eq_ok h
    rw [eq_of_scan_eq_ok hscan] at h
    exact (Except.ok.inj h).symm

theorem firstNonzeroAt_of_findIdx? {v : List Nat} {col : Nat} (h : v.findIdx? (fun x => decide (x ≠ 0)) = some col) :
    firstNonzeroAt v col := by
  obtain ⟨hcol, hne, hbefore⟩ := List.findIdx?_eq_some_iff_getElem.1 h
  refine ⟨hcol, ?_, fun j hj => ?_⟩
  · rw [List.getD_eq_getElem _ _ hcol]
    simpa using hne
  · rw [List.getD_eq_getElem _ _ (hj.trans hcol)]
    simpa using hbefore j hj

theorem findIdx?_of_firstNonzeroAt {v : List Nat} {col : Nat} (h : firstNonzeroAt v col) :
    v.findIdx? (fun x => decide (x ≠ 0)) = some col := by
  obtain ⟨hcol, hne, hbefore⟩ := h
  refine List.findIdx?_eq_some_iff_getElem.2 ⟨hcol, ?_, fun j hj => ?_⟩
  · rw [List.getD_eq_getElem _ _ hcol] at hne
    simpa using hne
  · have hz := hbefore j hj
    rw [List.getD_eq_getElem _ _ (hj.trans hcol)] at hz
    simpa using hz

theorem findIdx?_nonzero_eq_none_iff (v : List Nat) :
    v.findIdx? (fun x => decide (x ≠ 0)) = none ↔ ∀ x ∈ v, x = 0 := by
  simp only [List.findIdx?_eq_none_iff, decide_eq_false_iff_not, not_not]

/-- The status of an inserted row by its nonzero elements (R199). -/
def statusOf (v : List Nat) : SymbolStatus := if nonzeros v = 1 then .decoded else .partiallyDecoded

/-- A CONSUME_ROW that succeeds: the vector reduces to zero and is discarded; or its first nonzero element stands at an
empty column, where it is inserted and back-substituted (R199). -/
theorem consumeRow_cases {s u : State} {l : Latched} {v : List Nat} {sp : Nat} (h : consumeRow s l v sp = .ok u) :
    ∃ w fs, forward s.config s.dec s.memory v = .ok (w, fs) ∧
      ((∀ x ∈ w, x = 0) ∧ u = discarded s l.su ∨
        ∃ col m m', firstNonzeroAt w col ∧ pivAt s.dec col = false ∧
          insertRow s.config s.dec col w fs sp s.memory = .ok m ∧ backsub s.config (addPivot s.dec col) col m = .ok m' ∧
          u = inserted s l.su col (statusOf w) m') := by
  obtain ⟨⟨w, fs⟩, hforward, h⟩ := exists_of_bind_eq_ok h
  refine ⟨w, fs, hforward, ?_⟩
  dsimp only at h
  split at h
  · next hzero => exact .inl ⟨(findIdx?_nonzero_eq_none_iff w).1 hzero, eq_of_finishConsume_eq_ok h⟩
  · next col hcol =>
    split at h
    · cases h
    · next hfree =>
      obtain ⟨m, hm, h⟩ := exists_of_bind_eq_ok h
      obtain ⟨m', hm', h⟩ := exists_of_bind_eq_ok h
      exact .inr ⟨col, m, m', firstNonzeroAt_of_findIdx? hcol, by simpa using hfree, hm, hm',
        eq_of_finishConsume_eq_ok h⟩

/-- The three cases of a DEC_CONSUME_SYS that succeeds (R200). -/
theorem consumeUnit_cases {s u : State} {l : Latched} {i sp : Nat} (h : consumeUnit s l i sp = .ok u) :
    (pivAt s.dec i = true ∧ l.sysdup = true ∧ consumeRow s l (unitVector s.dec.dn.toNat i) sp = .ok u) ∨
    (pivAt s.dec i = true ∧ l.sysdup = false ∧ u = discarded s l.su) ∨
    (pivAt s.dec i = false ∧ ∃ m m', insertUnitRow s.config s.dec i sp s.memory = .ok m ∧
      backsub s.config (addPivot s.dec i) i m = .ok m' ∧ u = inserted s l.su i .decoded m') := by
  unfold consumeUnit at h
  split at h
  · next hpiv =>
    split at h
    · next hdup => exact .inl ⟨hpiv, hdup, h⟩
    · next hdup => exact .inr (.inl ⟨hpiv, by simpa using hdup, eq_of_finishConsume_eq_ok h⟩)
  · next hfree =>
    obtain ⟨m, hm, h⟩ := exists_of_bind_eq_ok h
    obtain ⟨m', hm', h⟩ := exists_of_bind_eq_ok h
    exact .inr (.inr ⟨by simpa using hfree, m, m', hm, hm', eq_of_finishConsume_eq_ok h⟩)

/-- The command consumes a pair. -/
def isConsume (i : Instr) : Prop := ∃ f, i = .decConsume f ∨ i = .decConsumeSys f

/-- The index of DEC_CONSUME_SYS is below DN once its checks hold (R200). -/
theorem index_lt_of_checksPass {f : Field} {s : State} {l : Latched} (h : checksPass (.decConsumeSys f) l s = true) :
    l.ops.a0.toNat < s.dec.dn.toNat := by
  have hcheck : (decide (s.dec.dn.toNat ≤ l.ops.a0.toNat) || !inRange (consumeSymbol s.dec l)) = false :=
    check_of_checksPass h (e := .range) (by simp [checks, decConsumeSysChecks])
  simp only [Bool.or_eq_false_iff, decide_eq_false_iff_not, not_le] at hcheck
  exact hcheck.1

/-- A consume that succeeds discards its pair, or inserts it at an empty column below DN. -/
theorem consume_cases {i : Instr} {s u : State} {l : Latched} (hi : isConsume i) (hpass : checksPass i l s = true)
    (h : commandBody i s l = .ok u) :
    u = discarded s l.su ∨ ∃ col x m, col < s.dec.dn.toNat ∧ pivAt s.dec col = false ∧ x ≠ .missing ∧
      u = inserted s l.su col x m := by
  have hrow : ∀ v : List Nat, v.length ≤ s.dec.dn.toNat → consumeRow s l v l.ops.a1.toNat = .ok u →
      u = discarded s l.su ∨ ∃ col x m, col < s.dec.dn.toNat ∧ pivAt s.dec col = false ∧ x ≠ .missing ∧
        u = inserted s l.su col x m := by
    intro v hv h
    obtain ⟨w, fs, hforward, ⟨-, hu⟩ | ⟨col, m, m', hfirst, hfree, -, -, hu⟩⟩ := consumeRow_cases h
    · exact .inl hu
    · have hcol : col < s.dec.dn.toNat := hfirst.1.trans_le ((forward_length_le hforward).trans hv)
      have hx : statusOf w ≠ .missing := by
        unfold statusOf
        split <;> exact nofun
      exact .inr ⟨col, _, m', hcol, hfree, hx, hu⟩
  obtain ⟨f, rfl | rfl⟩ := hi
  · obtain ⟨v, hv, h⟩ := exists_of_bind_eq_ok h
    exact hrow v (readElems_length hv).le h
  · obtain ⟨-, -, h⟩ | ⟨-, -, hu⟩ | ⟨hfree, m, m', -, -, hu⟩ := consumeUnit_cases h
    · exact hrow _ (unitVector_length _ _).le h
    · exact .inl hu
    · exact .inr ⟨_, .decoded, m', index_lt_of_checksPass hpass, hfree, nofun, hu⟩

/-! ### What a command can do to the decoder -/

/-- The decoder `d'` that command `i` leaves of `d`, with the status that it ends with. -/
inductive DecChange (i : Instr) (c : Config) (d : Decoder) (st : Status) : Decoder → Prop
  | kept : DecChange i c d st d
  | ended (hi : isConsume i) (hinit : d.init = true) (herr : st.err = true) (hcode : st.errCode = 0x0B) :
      DecChange i c d st { d with init := false }
  | bound {f : Field} {l : Latched} (hi : i = .decInit f) (hcheck : firstError (decInitChecks c f l) = none) :
      DecChange i c d st (initDecoder c f l.ops)
  | rescanned {f : Field} (m : Memory) (hi : i = .decUpdateStatus f) (hinit : d.init = true) :
      DecChange i c d st (updateCounts (scanned m d))
  | discarded (su : Bool) (m : Memory) (hi : isConsume i) (hinit : d.init = true) :
      DecChange i c d st { updateCounts (scannedIf su m d) with dep := true }
  | inserted (su : Bool) (m : Memory) {col : Nat} {x : SymbolStatus} (hi : isConsume i) (hinit : d.init = true)
      (hcol : col < d.dn.toNat) (hfree : pivAt d col = false) (hx : x ≠ .missing) :
      DecChange i c d st { updateCounts (scannedIf su m (setStat (addPivot d col) col x)) with dep := false }

/-- A session command whose checks hold runs in a session (R198). -/
theorem init_of_checksPass {f : Field} {i : Instr} {s : State} {l : Latched}
    (hi : i ∈ [.decConsume f, .decConsumeSys f, .decUpdateStatus f, .decQuery f]) (h : checksPass i l s = true) :
    s.dec.init = true ∧ f = s.dec.dfield := by
  obtain ⟨rest, hrest⟩ := checks_eq_sessionChecks_append hi l s
  have hinit : (!s.dec.init) = false := check_of_checksPass h (e := .noInit) (by simp [hrest, sessionChecks])
  have hfield : decide (f ≠ s.dec.dfield) = false :=
    check_of_checksPass h (e := .field) (by simp [hrest, sessionChecks])
  exact ⟨by simpa using hinit, by simpa using hfield⟩

theorem init_of_isConsume {i : Instr} {s : State} {l : Latched} (hi : isConsume i) (h : checksPass i l s = true) :
    s.dec.init = true := by
  obtain ⟨f, rfl | rfl⟩ := hi <;> exact (init_of_checksPass (f := f) (by simp) h).1

theorem decChange_of_body {i : Instr} {s u : State} {l : Latched} {st : Status} (hpass : checksPass i l s = true)
    (h : commandBody i s l = .ok u) : DecChange i s.config s.dec st u.dec := by
  have hconsume : isConsume i → DecChange i s.config s.dec st u.dec := by
    intro hi
    have hinit := init_of_isConsume hi hpass
    obtain rfl | ⟨col, x, m, hcol, hfree, hx, rfl⟩ := consume_cases hi hpass h
    · exact .discarded l.su s.memory hi hinit
    · exact .inserted l.su m hi hinit hcol hfree hx
  cases i with
  | decConsume f => exact hconsume ⟨f, .inl rfl⟩
  | decConsumeSys f => exact hconsume ⟨f, .inr rfl⟩
  | decUpdateStatus f =>
    obtain ⟨d, hd, h⟩ := exists_of_bind_eq_ok h
    obtain rfl := Except.ok.inj h
    rw [eq_of_scan_eq_ok hd]
    exact .rescanned s.memory rfl (init_of_checksPass (f := f) (by simp) hpass).1
  | decInit f =>
    obtain rfl := Except.ok.inj h
    exact .bound rfl (Option.isNone_iff_eq_none.1 hpass)
  | rowAxpy f | rowScale f | genFill f | genFillPartial f =>
    obtain ⟨x, -, h⟩ := exists_of_bind_eq_ok h
    obtain rfl := Except.ok.inj h
    exact .kept
  | nop | genSeed | genDensity | gfAdd f | gfMul f | gfDiv f | gfInv f | decQuery f =>
    obtain rfl := Except.ok.inj h
    exact .kept

/-- Everything a command can do to the decoder. -/
theorem decChange_of_exec {i : Instr} {s t : State} (h : exec i s = .next t) :
    DecChange i s.config s.dec t.status t.dec := by
  obtain hl | ⟨l, hl⟩ := idle_or_busy s
  · obtain rfl := Host.Outcome.next.inj ((exec_of_idle hl).symm.trans h)
    exact .kept
  · rw [exec_eq_commandBody] at h
    obtain ⟨e, -, rfl⟩ | ⟨-, e, -, -, rfl⟩ | ⟨hcheck, -, rfl⟩ | ⟨hcheck, u, hbody, rfl⟩ := runCommand_cases hl h
    · exact .kept
    · rw [raiseError_dec, disturb_dec]
      exact .kept
    · have hpass : checksPass i l s = true := by rw [checksPass, hcheck, Option.isNone_none]
      rw [raiseError_dec, havoc_dec]
      by_cases hi : isConsume i
      · have hend : (endSession i s).dec = { s.dec with init := false } := by
          obtain ⟨f, rfl | rfl⟩ := hi <;> rfl
        rw [hend]
        exact .ended hi (init_of_isConsume hi hpass) rfl rfl
      · have hend : (endSession i s).dec = s.dec := by
          cases i with
          | decConsume f => exact absurd ⟨f, .inl rfl⟩ hi
          | decConsumeSys f => exact absurd ⟨f, .inr rfl⟩ hi
          | _ => rfl
        rw [hend]
        exact .kept
    · have hpass : checksPass i l s = true := by rw [checksPass, hcheck, Option.isNone_none]
      rw [complete_dec, disturb_dec]
      exact decChange_of_body hpass hbody

end Sys2Proof.Machine

/-! PROOFS. The decoder's bookkeeping over one command and over one step (10_state.md R33-R39). -/

namespace Sys2Proof.Machine

/-! ### Statuses and pivots -/

theorem statAt_scanned (m : Memory) (d : Decoder) (r : Nat) :
    statAt (scanned m d) r =
      if r < d.dn.toNat ∧ statAt d r = .partiallyDecoded ∧ rowNonzeros d m r = 1 then .decoded else statAt d r :=
  statAt_scannedTo m d d.dn.toNat r

/-- SCAN raises a status or leaves it (43_pivot_engine.md R195). -/
theorem statAt_scannedIf (su : Bool) (m : Memory) (d : Decoder) (r : Nat) :
    statAt (scannedIf su m d) r = statAt d r ∨
      (statAt d r = .partiallyDecoded ∧ rowNonzeros d m r = 1 ∧ statAt (scannedIf su m d) r = .decoded) := by
  cases su with
  | false => exact .inl rfl
  | true =>
    simp only [scannedIf, if_true, statAt_scanned]
    split
    · next h => exact .inr ⟨h.2.1, h.2.2, rfl⟩
    · exact .inl rfl

theorem statAt_scannedIf_eq_missing_iff (su : Bool) (m : Memory) (d : Decoder) (r : Nat) :
    statAt (scannedIf su m d) r = .missing ↔ statAt d r = .missing := by
  obtain h | ⟨h, -, h'⟩ := statAt_scannedIf su m d r
  · rw [h]
  · rw [h, h']
    exact ⟨nofun, nofun⟩

theorem statCode_statAt_le_scannedIf (su : Bool) (m : Memory) (d : Decoder) (r : Nat) :
    statCode (statAt d r) ≤ statCode (statAt (scannedIf su m d) r) := by
  obtain h | ⟨h, -, h'⟩ := statAt_scannedIf su m d r
  · rw [h]
  · rw [h, h']
    decide

/-- SCAN changes nothing but STAT, and not its length (43_pivot_engine.md R195). -/
theorem scannedIf_eq (su : Bool) (m : Memory) (d : Decoder) : scannedIf su m d = { d with stat := (scannedIf su m d).stat } := by
  cases su <;> rfl

theorem scannedIf_stat_length (su : Bool) (m : Memory) (d : Decoder) : (scannedIf su m d).stat.length = d.stat.length := by
  cases su with
  | false => rfl
  | true => exact List.length_mapIdx

/-- One more index below `n` that a predicate holds of is one more in its count. -/
theorem countP_range_insert {p q : Nat → Bool} {n col : Nat} (hcol : col < n) (hp : p col = false) (hq : q col = true)
    (hsame : ∀ r, r ≠ col → q r = p r) : (List.range n).countP q = (List.range n).countP p + 1 := by
  induction n with
  | zero => exact absurd hcol (Nat.not_lt_zero col)
  | succ n ih =>
    simp only [List.range_succ, List.countP_append, List.countP_singleton]
    obtain hlt | rfl := Nat.lt_succ_iff_lt_or_eq.1 hcol
    · rw [ih hlt, hsame n (Nat.ne_of_gt hlt)]
      omega
    · have hbelow : (List.range col).countP q = (List.range col).countP p :=
        List.countP_congr fun r hr => by rw [hsame r (Nat.ne_of_lt (List.mem_range.1 hr))]
      simp only [hbelow, hp, hq, Bool.false_eq_true, if_false, if_true]

/-- Every index has one of the three statuses. -/
theorem countStat_sum (d : Decoder) :
    countStat d .missing + countStat d .partiallyDecoded + countStat d .decoded = d.dn.toNat := by
  have hlist : ∀ rs : List Nat, rs.countP (fun r => decide (statAt d r = .missing)) +
      rs.countP (fun r => decide (statAt d r = .partiallyDecoded)) + rs.countP (fun r => decide (statAt d r = .decoded)) =
        rs.length := by
    intro rs
    induction rs with
    | nil => rfl
    | cons r rs ih =>
      simp only [List.countP_cons, List.length_cons]
      cases statAt d r <;> simp <;> omega
  exact (hlist _).trans List.length_range

/-! ### The invariant, apart from the counts -/

/-- The part of the bookkeeping that a commit of the counts completes: the arrays, and RANK (10_state.md R33, R38). -/
structure PivotsWf (c : Config) (d : Decoder) : Prop where
  pivLength : d.piv.length = c.nmax
  statLength : d.stat.length = c.nmax
  dn_le : d.dn.toNat ≤ c.nmax
  stored_iff : ∀ r, pivAt d r = true ↔ statAt d r ≠ .missing
  above : ∀ r, d.dn.toNat ≤ r → pivAt d r = false
  rank : d.rank.toNat = (List.range d.dn.toNat).countP (pivAt d)

theorem pivotsWf_of_decoderCounts {c : Config} {d : Decoder} (h : DecoderCounts c d) : PivotsWf c d := by
  obtain ⟨h1, h2, h3, h4, h5, h6, -⟩ := h
  exact ⟨h1, h2, h3, h4, h5, h6⟩

section
variable {c : Config} {d : Decoder} (h : PivotsWf c d)
include h

/-- A commit of the counts completes the bookkeeping (43_pivot_engine.md R196). -/
theorem PivotsWf.updateCounts : DecoderCounts c (Machine.updateCounts d) := by
  obtain ⟨h1, h2, h3⟩ := updateCounts_toNat d
  exact ⟨h.pivLength, h.statLength, h.dn_le, h.stored_iff, h.above, h.rank, h1, h2, h3⟩

theorem PivotsWf.scannedIf (su : Bool) (m : Memory) : PivotsWf c (Machine.scannedIf su m d) := by
  have hpiv : pivAt (Machine.scannedIf su m d) = pivAt d := by cases su <;> rfl
  have hdn : (Machine.scannedIf su m d).dn = d.dn := by cases su <;> rfl
  have hrank : (Machine.scannedIf su m d).rank = d.rank := by cases su <;> rfl
  refine ⟨?_, ?_, ?_, fun r => ?_, fun r hr => ?_, ?_⟩
  · rw [scannedIf_eq]
    exact h.pivLength
  · rw [scannedIf_stat_length, h.statLength]
  · rw [hdn]
    exact h.dn_le
  · rw [hpiv, ne_eq, statAt_scannedIf_eq_missing_iff]
    exact h.stored_iff r
  · rw [hpiv]
    exact h.above r (hdn ▸ hr)
  · rw [hpiv, hdn, hrank]
    exact h.rank

variable {col : Nat} (hcol : col < d.dn.toNat) (hfree : pivAt d col = false)
include hcol hfree

/-- RANK counts one row more, and does not wrap (43_pivot_engine.md R199). -/
theorem PivotsWf.addPivot_rank :
    (addPivot d col).rank.toNat = d.rank.toNat + 1 ∧
      (addPivot d col).rank.toNat = (List.range d.dn.toNat).countP (pivAt (addPivot d col)) := by
  have hpiv := fun r => pivAt_addPivot d col r (by rw [h.pivLength]; exact hcol.trans_le h.dn_le)
  have hcount : (List.range d.dn.toNat).countP (pivAt (addPivot d col)) =
      (List.range d.dn.toNat).countP (pivAt d) + 1 :=
    countP_range_insert hcol hfree (by rw [hpiv, if_pos rfl]) fun r hr => by rw [hpiv, if_neg hr]
  have hle : (List.range d.dn.toNat).countP (pivAt (addPivot d col)) ≤ d.dn.toNat :=
    List.countP_le_length.trans_eq List.length_range
  have hdn := d.dn.isLt
  have hrank : (addPivot d col).rank.toNat = d.rank.toNat + 1 := by
    have hone : BitVec.toNat (1 : Word) = 1 := rfl
    rw [Machine.addPivot_rank, BitVec.toNat_add, hone, h.rank]
    omega
  exact ⟨hrank, by rw [hrank, hcount, h.rank]⟩

theorem PivotsWf.insert {x : SymbolStatus} (hx : x ≠ .missing) : PivotsWf c (setStat (addPivot d col) col x) := by
  have hlt : col < c.nmax := hcol.trans_le h.dn_le
  have hpiv : ∀ r, pivAt (setStat (addPivot d col) col x) r = if r = col then true else pivAt d r := fun r =>
    pivAt_addPivot d col r (by rwa [h.pivLength])
  have hstat : ∀ r, statAt (setStat (addPivot d col) col x) r = if r = col then x else statAt d r := fun r =>
    statAt_setStat (addPivot d col) col r x (h.statLength.symm ▸ hlt)
  refine ⟨?_, ?_, h.dn_le, fun r => ?_, fun r hr => ?_, (h.addPivot_rank hcol hfree).2⟩
  · rw [setStat_piv, addPivot_piv, List.length_set, h.pivLength]
  · rw [setStat_stat, addPivot_stat, List.length_set, h.statLength]
  · rw [hpiv, hstat]
    split
    · exact ⟨fun _ => hx, fun _ => rfl⟩
    · exact h.stored_iff r
  · have hge : d.dn.toNat ≤ r := hr
    rw [hpiv, if_neg (by omega)]
    exact h.above r hge

end

/-! ### One command -/

/-- A command in a session keeps it; a bus error of a consume ends it; DEC_INIT binds another (43_pivot_engine.md
R197-R202). -/
theorem decoderWf_of_decChange {i : Instr} {c : Config} {d d' : Decoder} {st : Status} (h : DecChange i c d st d')
    (hwf : DecoderWf c d) : DecoderWf c d' := by
  obtain ⟨hcounts, hgeom⟩ := hwf
  have hpivots := pivotsWf_of_decoderCounts hcounts
  cases h with
  | kept => exact ⟨hcounts, hgeom⟩
  | ended hi hinit herr hcode =>
    obtain ⟨h1, h2, h3, h4, h5, h6, -⟩ := hgeom
    exact ⟨hcounts, h1, h2, h3, h4, h5, h6, nofun⟩
  | bound hi hcheck => exact initDecoder_wf hcheck
  | rescanned m hi hinit => exact ⟨(hpivots.scannedIf true m).updateCounts, hgeom⟩
  | discarded su m hi hinit =>
    refine ⟨(hpivots.scannedIf su m).updateCounts, ?_⟩
    rw [scannedIf_eq]
    exact hgeom
  | inserted su m hi hinit hcol hfree hx =>
    refine ⟨((hpivots.insert hcol hfree hx).scannedIf su m).updateCounts, ?_⟩
    rw [scannedIf_eq]
    exact hgeom

/-- Without a session the counts are 0 after a command, but for a consume that a bus error ended (log entry 11). -/
theorem countsZero_of_decChange {i : Instr} {c : Config} {d d' : Decoder} {st : Status} (h : DecChange i c d st d')
    (hzero : CountsZeroWithoutSession d) :
    CountsZeroWithoutSession d' ∨ (d.init = true ∧ d'.init = false ∧ st.err = true ∧ st.errCode = 0x0B) := by
  cases h with
  | kept => exact .inl hzero
  | ended hi hinit herr hcode => exact .inr ⟨hinit, rfl, herr, hcode⟩
  | bound hi hcheck => exact .inl nofun
  | rescanned m hi hinit => exact .inl fun hno => absurd (hinit.symm.trans hno) nofun
  | discarded su m hi hinit =>
    rw [scannedIf_eq]
    exact .inl fun hno => absurd (hinit.symm.trans hno) nofun
  | inserted su m hi hinit hcol hfree hx =>
    rw [scannedIf_eq]
    exact .inl fun hno => absurd (hinit.symm.trans hno) nofun

/-! ### Reset -/

theorem decoderCounts_reset (c : Config) : DecoderCounts c (Decoder.reset c.nmax) := by
  have hp := fun r => pivAt_replicate (Decoder.reset c.nmax) c.nmax r rfl
  have hs := fun r => statAt_replicate (Decoder.reset c.nmax) c.nmax r rfl
  refine ⟨List.length_replicate, List.length_replicate, Nat.zero_le _, fun r => ?_, fun r _ => hp r, rfl, rfl, rfl, rfl⟩
  simp only [hp, hs, Bool.false_eq_true, ne_eq, not_true_eq_false]

theorem decoderWf_reset (c : Config) : DecoderWf c (Decoder.reset c.nmax) :=
  ⟨decoderCounts_reset c, rfl, rfl, rfl, rfl, rfl, rfl, nofun⟩

theorem countsZero_reset (n : Nat) : CountsZeroWithoutSession (Decoder.reset n) := fun _ => ⟨rfl, rfl, rfl⟩

/-- Settles O46: the decoder changes by a command (`decChange_of_exec`) or by a reset, and each keeps the bookkeeping. -/
theorem everyStepKeepsTheDecoderBookkeeping : Obligations.EveryStepKeepsTheDecoderBookkeeping := by
  intro s t hwf h
  have hsum : DecoderWf t.config t.dec → t.dec.cntMiss.toNat + t.dec.cntPart.toNat + t.dec.cntDec.toNat = t.dec.dn.toNat := by
    rintro ⟨⟨-, -, -, -, -, -, hmiss, hpart, hdec⟩, -⟩
    rw [hmiss, hpart, hdec, countStat_sum]
  suffices hmain : DecoderWf t.config t.dec ∧ (CountsZeroWithoutSession s.dec → CountsZeroWithoutSession t.dec ∨
      (s.dec.init = true ∧ t.dec.init = false ∧ t.status.err = true ∧ t.status.errCode = 0x0B)) from
    ⟨hmain.1, hsum hmain.1, hmain.2⟩
  obtain ⟨i, l, -, hexec⟩ | ⟨hconfig, hdec, -⟩ | ⟨hconfig, hdec, -⟩ := step_cases h
  · have hchange : DecChange i s.config s.dec t.status t.dec :=
      decChange_of_exec (s := { s with inputs := s.inputs.tail }) hexec
    have hconfig : t.config = s.config := (exec_keeps hexec).1
    rw [hconfig]
    exact ⟨decoderWf_of_decChange hchange hwf, countsZero_of_decChange hchange⟩
  · rw [hconfig, hdec]
    exact ⟨decoderWf_reset s.config, fun _ => .inl (countsZero_reset _)⟩
  · rw [hconfig, hdec]
    exact ⟨hwf, .inl⟩

/-- Settles O45: a command keeps the canonical form (`exec_memory`), free values and a byte store do. -/
theorem everyStepKeepsMemoryCanonical : Obligations.EveryStepKeepsMemoryCanonical := by
  intro s t hwf h
  obtain ⟨i, l, hl, hexec⟩ | ⟨hconfig, -, -, hmem⟩ | ⟨hconfig, -, -, hmem | ⟨a, b, hmem⟩⟩ := step_cases h
  · exact ⟨(exec_memory (s := { s with inputs := s.inputs.tail }) hwf hl hexec).1, (exec_keeps hexec).1⟩
  · rw [hmem]
    exact ⟨(havoc_spec (writesInFlight s) hwf).1, hconfig⟩
  · rw [hmem]
    exact ⟨hwf, hconfig⟩
  · rw [hmem]
    exact ⟨write_keeps_wf hwf a b, hconfig⟩

/-- Settles O40: of what a command can do to the decoder, only an insertion adds to RANK, and only SCAN and an insertion
change a status. -/
theorem rankAndStatusOnlyGrow : Obligations.RankAndStatusOnlyGrow := by
  intro i s t hinit hwf h
  have hchange := decChange_of_exec h
  have hwf' := decoderWf_of_decChange hchange hwf
  have hle : t.dec.rank.toNat ≤ t.dec.dn.toNat := by
    rw [(pivotsWf_of_decoderCounts hwf'.1).rank]
    exact List.countP_le_length.trans_eq List.length_range
  have hpivots := pivotsWf_of_decoderCounts hwf.1
  suffices hmain : t.dec.dn = s.dec.dn ∧
      (t.dec.rank.toNat = s.dec.rank.toNat ∨ t.dec.rank.toNat = s.dec.rank.toNat + 1) ∧
      ∀ r, statCode (statAt s.dec r) ≤ statCode (statAt t.dec r) from ⟨hmain.1, hmain.2.1, hle, hmain.2.2⟩
  generalize t.dec = d at hchange
  cases hchange with
  | kept => exact ⟨rfl, .inl rfl, fun r => le_rfl⟩
  | ended hi hinit herr hcode => exact ⟨rfl, .inl rfl, fun r => le_rfl⟩
  | @bound f l hi hcheck => exact absurd hi (hinit f)
  | rescanned m hi hinit => exact ⟨rfl, .inl rfl, statCode_statAt_le_scannedIf true m s.dec⟩
  | discarded su m hi hinit =>
    have hdn : (scannedIf su m s.dec).dn = s.dec.dn := by cases su <;> rfl
    have hrank : (scannedIf su m s.dec).rank = s.dec.rank := by cases su <;> rfl
    exact ⟨hdn, .inl (congrArg BitVec.toNat hrank), statCode_statAt_le_scannedIf su m s.dec⟩
  | @inserted su m col x hi hinit hcol hfree hx =>
    have hdn : (scannedIf su m (setStat (addPivot s.dec col) col x)).dn = s.dec.dn := by cases su <;> rfl
    have hrank : (scannedIf su m (setStat (addPivot s.dec col) col x)).rank = (addPivot s.dec col).rank := by
      cases su <;> rfl
    refine ⟨hdn, .inr ((congrArg BitVec.toNat hrank).trans (hpivots.addPivot_rank hcol hfree).1), fun r => ?_⟩
    refine le_trans ?_ (statCode_statAt_le_scannedIf su m (setStat (addPivot s.dec col) col x) r)
    rw [statAt_setStat (addPivot s.dec col) col r x (hpivots.statLength.symm ▸ hcol.trans_le hpivots.dn_le)]
    split
    · next hr =>
      have hmissing : statAt s.dec r = .missing := by
        by_contra hne
        exact ne_true_of_eq_false hfree (hr ▸ (hpivots.stored_iff r).2 hne)
      rw [hmissing]
      exact Nat.zero_le _
    · exact le_rfl

end Sys2Proof.Machine

/-! PROOFS. Which commands write RES and the generator, and that the generator stays valid (10_state.md R37,
42_coeff_generator.md R161-R168). -/

namespace Sys2Proof.Machine

/-! ### The generator's state is never 0 -/

theorem eq_zero_of_eq_shiftLeft {w k : Nat} (hk : 0 < k) {x : BitVec w} (h : x = x <<< k) : x = 0 := by
  refine BitVec.eq_of_getLsbD_eq fun i _ => ?_
  rw [BitVec.ofNat_eq_ofNat, BitVec.getLsbD_zero]
  induction i using Nat.strongRecOn with
  | ind i ih =>
    rw [h, BitVec.getLsbD_shiftLeft]
    by_cases hi : i < k
    · simp [hi]
    · rw [ih (i - k) (by omega) (by omega), Bool.and_false]

theorem eq_zero_of_eq_ushiftRight {w k : Nat} (hk : 0 < k) {x : BitVec w} (h : x = x >>> k) : x = 0 := by
  have hdiv : x.toNat = x.toNat / 2 ^ k := by
    conv_lhs => rw [h, BitVec.toNat_ushiftRight, Nat.shiftRight_eq_div_pow]
  by_contra hne
  have hpos : 0 < x.toNat := Nat.pos_of_ne_zero fun h0 => hne (BitVec.eq_of_toNat_eq h0)
  exact absurd hdiv (Nat.ne_of_gt (Nat.div_lt_self hpos (Nat.one_lt_two_pow hk.ne')))

/-- Each of a draw's three shifts keeps a nonzero state nonzero (42_coeff_generator.md R162). -/
theorem xorshift_ne_zero {g : BitVec 64} (hg : g ≠ 0) : xorshift g ≠ 0 := by
  have hleft : ∀ (k : Nat) (x : BitVec 64), 0 < k → x ≠ 0 → x ^^^ (x <<< k) ≠ 0 := fun k x hk hx h =>
    hx (eq_zero_of_eq_shiftLeft hk (BitVec.xor_eq_zero_iff.1 h))
  have hright : ∀ (k : Nat) (x : BitVec 64), 0 < k → x ≠ 0 → x ^^^ (x >>> k) ≠ 0 := fun k x hk hx h =>
    hx (eq_zero_of_eq_ushiftRight hk (BitVec.xor_eq_zero_iff.1 h))
  exact hleft 17 _ (by decide) (hright 7 _ (by decide) (hleft 13 g (by decide) hg))

theorem drawCoef_ne_zero (gen : Generator) (w : Nat) {g : BitVec 64} (hg : g ≠ 0) : (drawCoef gen w g).2 ≠ 0 := by
  unfold drawCoef
  split
  · exact xorshift_ne_zero hg
  · dsimp only
    split
    · exact xorshift_ne_zero (xorshift_ne_zero hg)
    · exact xorshift_ne_zero hg

/-- No seed's state is 0: its halves are complements (42_coeff_generator.md R161). -/
theorem seedState_ne_zero (seed : Word) : seedState seed ≠ 0 := by
  intro h
  have hlow : (seedState seed).getLsbD 0 = !seed.getLsbD 0 := by
    simp only [seedState, BitVec.getLsbD_append, Nat.zero_lt_succ, if_true, BitVec.getLsbD_not, decide_true,
      Bool.true_and]
  have hhigh : (seedState seed).getLsbD 32 = seed.getLsbD 0 := by
    simp only [seedState, BitVec.getLsbD_append, Nat.lt_irrefl, if_false, Nat.sub_self]
  rw [h, BitVec.ofNat_eq_ofNat, BitVec.getLsbD_zero] at hlow hhigh
  rw [← hhigh] at hlow
  exact absurd hlow (by decide)

/-! ### Which commands write RES and the generator -/

/-- The command writes RES (10_state.md R24). -/
def writesRes (i : Instr) : Prop :=
  ∃ f, i = .gfAdd f ∨ i = .gfMul f ∨ i = .gfDiv f ∨ i = .gfInv f ∨ i = .decConsume f ∨ i = .decConsumeSys f ∨
    i = .decQuery f

/-- The generator `g'` that command `i` leaves of `g` when it succeeds. -/
inductive GenChange (i : Instr) (g : Generator) : Generator → Prop
  | kept : GenChange i g g
  | seeded (seed : Word) (hi : i = .genSeed) : GenChange i g { g with gstate := seedState seed }
  | density {d : Word} (hi : i = .genDensity) (hok : densityOk d = true) :
      GenChange i g { g with gdens := d, gfull := (threshold d).1, gt := (threshold d).2 }
  | filled {f : Field} {gs : BitVec 64} (hi : i = .genFill f ∨ i = .genFillPartial f)
      (hne : g.gstate ≠ 0 → gs ≠ 0) : GenChange i g { g with gstate := gs }

theorem genChange_of_body {i : Instr} {s u : State} {l : Latched} (hpass : checksPass i l s = true)
    (h : commandBody i s l = .ok u) : GenChange i s.gen u.gen := by
  cases i with
  | genSeed =>
    obtain rfl := Except.ok.inj h
    exact .seeded l.ops.a0 rfl
  | genDensity =>
    obtain rfl := Except.ok.inj h
    have hok : (!densityOk l.ops.a0) = false := check_of_checksPass hpass (e := .density) (by simp [checks, genDensityChecks])
    exact .density rfl (by simpa using hok)
  | genFill f =>
    obtain ⟨x, hloop, h⟩ := exists_of_bind_eq_ok h
    obtain rfl := Except.ok.inj h
    refine .filled (.inl rfl) fun hne => ?_
    refine loop_keeps (fun y : BitVec 64 × Memory => y.1 ≠ 0) (fun j y z hz hy => ?_) hloop hne
    obtain ⟨m, -, hz⟩ := exists_of_bind_eq_ok hz
    obtain rfl := Except.ok.inj hz
    exact drawCoef_ne_zero _ _ hy
  | genFillPartial f =>
    obtain ⟨x, hloop, h⟩ := exists_of_bind_eq_ok h
    obtain rfl := Except.ok.inj h
    refine .filled (.inr rfl) fun hne => ?_
    refine loop_keeps (fun y : BitVec 64 × Memory => y.1 ≠ 0) (fun j y z hz hy => ?_) hloop hne
    obtain ⟨b, -, hz⟩ := exists_of_bind_eq_ok hz
    obtain ⟨m, -, hz⟩ := exists_of_bind_eq_ok hz
    obtain rfl := Except.ok.inj hz
    exact drawCoef_ne_zero _ _ hy
  | decConsume f | decConsumeSys f =>
    obtain rfl | ⟨col, x, m, -, -, -, rfl⟩ := consume_cases ⟨f, by simp⟩ hpass h <;> exact .kept
  | rowAxpy f | rowScale f | decUpdateStatus f =>
    obtain ⟨x, -, h⟩ := exists_of_bind_eq_ok h
    obtain rfl := Except.ok.inj h
    exact .kept
  | nop | gfAdd f | gfMul f | gfDiv f | gfInv f | decInit f | decQuery f =>
    obtain rfl := Except.ok.inj h
    exact .kept

theorem res_of_body {i : Instr} {s u : State} {l : Latched} (hi : ¬writesRes i) (h : commandBody i s l = .ok u) :
    u.res = s.res := by
  cases i with
  | gfAdd f | gfMul f | gfDiv f | gfInv f | decConsume f | decConsumeSys f | decQuery f => exact absurd ⟨f, by simp⟩ hi
  | rowAxpy f | rowScale f | genFill f | genFillPartial f | decUpdateStatus f =>
    obtain ⟨x, -, h⟩ := exists_of_bind_eq_ok h
    obtain rfl := Except.ok.inj h
    rfl
  | nop | genSeed | genDensity | decInit f =>
    obtain rfl := Except.ok.inj h
    rfl

/-- RES and the generator after a command: those of a body that succeeds, or those of before. -/
theorem exec_res_gen {i : Instr} {s t : State} (h : exec i s = .next t) :
    (t.res = s.res ∧ t.gen = s.gen) ∨
      ∃ l u, checksPass i l s = true ∧ commandBody i s l = .ok u ∧ t.res = u.res ∧ t.gen = u.gen := by
  obtain hl | ⟨l, hl⟩ := idle_or_busy s
  · obtain rfl := Host.Outcome.next.inj ((exec_of_idle hl).symm.trans h)
    exact .inl ⟨rfl, rfl⟩
  · rw [exec_eq_commandBody] at h
    obtain ⟨e, -, rfl⟩ | ⟨-, e, -, -, rfl⟩ | ⟨-, -, rfl⟩ | ⟨hcheck, u, hbody, rfl⟩ := runCommand_cases hl h
    · exact .inl ⟨rfl, rfl⟩
    · exact .inl ⟨by rw [raiseError_res, disturb_res], by rw [raiseError_gen, disturb_gen]⟩
    · exact .inl ⟨by rw [raiseError_res, havoc_res, endSession_res], by rw [raiseError_gen, havoc_gen, endSession_gen]⟩
    · exact .inr ⟨l, u, by rw [checksPass, hcheck, Option.isNone_none], hbody, by rw [complete_res, disturb_res],
        by rw [complete_gen, disturb_gen]⟩

theorem genChange_of_exec {i : Instr} {s t : State} (h : exec i s = .next t) : GenChange i s.gen t.gen := by
  obtain ⟨-, hgen⟩ | ⟨l, u, hpass, hbody, -, hgen⟩ := exec_res_gen h
  · rw [hgen]
    exact .kept
  · rw [hgen]
    exact genChange_of_body hpass hbody

/-- A command that ends with an error leaves DEP and RANK (10_state.md R43, 60_exceptions.md R246). -/
theorem dep_rank_of_error {i : Instr} {s t : State} (h : exec i s = .next t) (herr : t.status.err = true)
    (hok : s.status.err = false) : t.dec.dep = s.dec.dep ∧ t.dec.rank = s.dec.rank := by
  obtain hl | ⟨l, hl⟩ := idle_or_busy s
  · obtain rfl := Host.Outcome.next.inj ((exec_of_idle hl).symm.trans h)
    exact ⟨rfl, rfl⟩
  · rw [exec_eq_commandBody] at h
    obtain ⟨e, -, rfl⟩ | ⟨-, e, -, -, rfl⟩ | ⟨-, -, rfl⟩ | ⟨-, u, hbody, rfl⟩ := runCommand_cases hl h
    · exact ⟨rfl, rfl⟩
    · rw [raiseError_dec, disturb_dec]
      exact ⟨rfl, rfl⟩
    · rw [raiseError_dec, havoc_dec]
      cases i <;> exact ⟨rfl, rfl⟩
    · have hstatus : u.status = s.status := (commandBody_changesOnlyResults hbody).status_eq
      simp only [complete_status, disturb_status, hstatus, hok, Bool.false_eq_true] at herr

/-- Settles O25: RES and the generator by `exec_res_gen` and `GenChange`, the decoder's registers by `DecChange`. -/
theorem registersAreWrittenOnlyByTheirCommands : Obligations.RegistersAreWrittenOnlyByTheirCommands := by
  intro i s t h
  have hgen := genChange_of_exec h
  have hdec := decChange_of_exec h
  refine ⟨fun hi => ?_, fun hi => ?_, fun hi => ?_, fun hi => ?_, fun hi => ?_, fun hi => ?_, dep_rank_of_error h⟩
  · have hno : ¬writesRes i := by
      rintro ⟨f, hf⟩
      obtain ⟨h1, h2, h3, h4, h5, h6, h7⟩ := hi f
      tauto
    obtain ⟨hres, -⟩ | ⟨l, u, -, hbody, hres, -⟩ := exec_res_gen h
    · exact hres
    · rw [hres, res_of_body hno hbody]
  · generalize t.gen = g at hgen
    cases hgen with
    | kept => rfl
    | seeded seed hseed => exact absurd hseed (hi .gf8).1
    | density hdens hok => rfl
    | @filled f gs hfill hne =>
      obtain ⟨-, h1, h2⟩ := hi f
      tauto
  · generalize t.gen = g at hgen
    cases hgen with
    | density hdens hok => exact absurd hdens hi
    | kept => exact ⟨rfl, rfl, rfl⟩
    | seeded seed hseed => exact ⟨rfl, rfl, rfl⟩
    | filled hfill hne => exact ⟨rfl, rfl, rfl⟩
  · generalize t.dec = d at hdec
    cases hdec with
    | @bound f l hinit hcheck => exact absurd hinit (hi f)
    | kept => exact ⟨rfl, rfl, rfl, rfl, rfl⟩
    | ended hcons hinit herr hcode => exact ⟨rfl, rfl, rfl, rfl, rfl⟩
    | rescanned m hupd hinit => exact ⟨rfl, rfl, rfl, rfl, rfl⟩
    | discarded su m hcons hinit =>
      rw [scannedIf_eq]
      exact ⟨rfl, rfl, rfl, rfl, rfl⟩
    | inserted su m hcons hinit hcol hfree hx =>
      rw [scannedIf_eq]
      exact ⟨rfl, rfl, rfl, rfl, rfl⟩
  · have hno : ¬isConsume i := fun ⟨f, hf⟩ => hf.elim (hi f).2.1 (hi f).2.2
    generalize t.dec = d at hdec
    cases hdec with
    | @bound f l hinit hcheck => exact absurd hinit (hi f).1
    | kept => exact ⟨rfl, rfl, rfl, rfl⟩
    | rescanned m hupd hinit => exact ⟨rfl, rfl, rfl, rfl⟩
    | ended hcons _ _ _ | discarded _ _ hcons _ | inserted _ _ hcons _ _ _ _ => exact absurd hcons hno
  · have hno : ¬isConsume i := fun ⟨f, hf⟩ => hf.elim (hi f).2.1 (hi f).2.2.1
    generalize t.dec = d at hdec
    cases hdec with
    | @bound f l hinit hcheck => exact absurd hinit (hi f).1
    | kept => rfl
    | @rescanned f m hupd hinit => exact absurd hupd (hi f).2.2.2
    | ended hcons _ _ _ | discarded _ _ hcons _ | inserted _ _ hcons _ _ _ _ => exact absurd hcons hno

/-- Settles O47: a command's new generator is valid in each of its cases, and so is the reset value. -/
theorem everyStepKeepsTheGeneratorValid : Obligations.EveryStepKeepsTheGeneratorValid := by
  intro s t hwf h
  obtain ⟨i, l, -, hexec⟩ | ⟨-, -, hgen, -⟩ | ⟨-, -, hgen, -⟩ := step_cases h
  · have hchange : GenChange i s.gen t.gen := genChange_of_exec (s := { s with inputs := s.inputs.tail }) hexec
    obtain ⟨hstate, hdens, hthr⟩ := hwf
    generalize t.gen = g at hchange
    cases hchange with
    | kept => exact ⟨hstate, hdens, hthr⟩
    | seeded seed hi => exact ⟨seedState_ne_zero seed, hdens, hthr⟩
    | density hi hok => exact ⟨hstate, hok, rfl⟩
    | filled hi hne => exact ⟨hne hstate, hdens, hthr⟩
  · rw [hgen]
    exact ⟨by decide, by decide, by decide⟩
  · rw [hgen]
    exact hwf

end Sys2Proof.Machine

/-! PROOFS. The register port and the start of a command (10_state.md R21, R22, 44_engine_control.md R231, R236, R237,
70_reset_and_hazards.md R271). -/

namespace Sys2Proof.Machine

/-- Settles O4: the engine's move runs the command that the latched word decodes to. -/
theorem stepRunsTheDecodedCommand : Obligations.StepRunsTheDecodedCommand := by
  constructor
  · intro s l i hreset hl hi hnext
    rw [step_of_engineNext hnext]
    exact engineStep_of_decode (s := { s with inputs := s.inputs.tail }) hreset hl hi
  · intro s _ hl hnext
    rw [step_of_engineNext hnext]
    exact engineStep_of_idle (s := { s with inputs := s.inputs.tail }) hl

/-- Settles O5: the engine's move raises ERR_ILLEGAL. -/
theorem illegalWordEndsWithErrIllegal : Obligations.IllegalWordEndsWithErrIllegal := by
  intro s l hreset hl hi hnext
  rw [step_of_engineNext hnext]
  exact engineStep_of_illegal (s := { s with inputs := s.inputs.tail }) hreset hl hi

/-- Settles O6: the port gives the word to `issue`, which accepts it. -/
theorem commandIssueIsAccepted : Obligations.CommandIssueIsAccepted := by
  intro s rest w hin hbase hreset hidle hok
  have hreg : ∀ t, writeReg 0x10 w t = issue w t := fun _ => rfl
  have hissue : issue w { s with inputs := rest } = acceptCommand w { s with inputs := rest } :=
    issue_of_idle (s := { s with inputs := rest }) hidle hok w
  rw [step_of_regWrite hin hbase (by decide) (by decide) hreset, hreg, hissue]
  rfl

/-- A pending read of a register returns its value, or 0 while the reset input is asserted (44_engine_control.md R237). -/
theorem step_of_regRead {s : State} {rest : List Input} {off : Nat}
    (hin : s.inputs = .regRead (s.config.regBase + off) 4 :: rest) (hbase : s.config.regBase % 256 = 0)
    (hoff : off < 256) (halign : off % 4 = 0) :
    step s = .next { s with
      inputs := rest
      hostData := some (if s.inReset then 0 else readReg { s with inputs := rest } off) } := by
  rw [step_of_input hin]
  refine (portAccess_of_offset (s := { s with inputs := rest }) hbase hoff halign _).trans ?_
  simp only [Nat.add_sub_cancel_left]

/-- A pending write of a register has no effect while the reset input is asserted (70_reset_and_hazards.md R271). -/
theorem step_of_regWrite_inReset {s : State} {rest : List Input} {off : Nat} {v : Word}
    (hin : s.inputs = .regWrite (s.config.regBase + off) 4 v :: rest) (hbase : s.config.regBase % 256 = 0)
    (hoff : off < 256) (halign : off % 4 = 0) (hreset : s.inReset = true) :
    step s = .next { s with inputs := rest, hostData := none } := by
  rw [step_of_input hin]
  refine (portAccess_of_offset (s := { s with inputs := rest }) hbase hoff halign _).trans ?_
  simp only [hreset, if_true]

/-- Settles O52: a read gives 0, a write and the engine's move nothing. -/
theorem assertedResetSilencesThePort : Obligations.AssertedResetSilencesThePort := by
  intro s rest off v hreset hbase hoff halign
  refine ⟨fun hin => ?_, fun hin => step_of_regWrite_inReset hin hbase hoff halign hreset, fun hnext => ?_⟩
  · rw [step_of_regRead hin hbase hoff halign, if_pos hreset]
  · rw [step_of_engineNext hnext]
    exact engineStep_of_reset (s := { s with inputs := s.inputs.tail }) hreset

/-- The register map (10_state.md R22). -/
def registerMap (s : State) : List (Nat × Word) :=
  [(0x00, 0x524C4E43), (0x04, capsWord s.config), (0x08, ctrlWord s), (0x0C, statusWord s), (0x10, s.lastCmd),
    (0x14, s.ops.a0), (0x18, s.ops.a1), (0x1C, s.ops.a2), (0x20, s.ops.a3), (0x24, s.res), (0x28, s.errCmd),
    (0x2C, s.dec.dn), (0x30, s.dec.ds), (0x34, s.dec.dcoef), (0x38, s.dec.dsym), (0x3C, s.dec.rank),
    (0x40, s.dec.cntMiss), (0x44, s.dec.cntPart), (0x48, s.dec.cntDec), (0x4C, s.gen.gdens),
    (0x50, s.gen.gstate.extractLsb' 0 32), (0x54, s.gen.gstate.extractLsb' 32 32)]

/-- The halves of GSTATE as a read takes them and as slices of it. -/
theorem readReg_gstate (s : State) :
    readReg s 0x50 = s.gen.gstate.extractLsb' 0 32 ∧ readReg s 0x54 = s.gen.gstate.extractLsb' 32 32 := by
  constructor
  · exact BitVec.eq_of_getLsbD_eq fun i hi => by simp [readReg, hi]
  · exact BitVec.eq_of_getLsbD_eq fun i hi => by simp [readReg, hi]

/-- A read gives each entry of the register map. -/
theorem readReg_of_mem_registerMap {s : State} {off : Nat} {v : Word} (h : (off, v) ∈ registerMap s) :
    off < 256 ∧ off % 4 = 0 ∧ readReg s off = v := by
  have hall : ∀ x ∈ registerMap s, x.1 < 256 ∧ x.1 % 4 = 0 ∧ readReg s x.1 = x.2 := by
    obtain ⟨hlow, hhigh⟩ := readReg_gstate s
    simp only [registerMap, List.forall_mem_cons, List.not_mem_nil, false_imp_iff, forall_const, and_true, hlow, hhigh]
    simp [readReg, idWord]
  exact hall _ h

/-- A read of a reserved offset gives 0 (10_state.md R22). -/
theorem readReg_of_reserved {off : Nat} (h : 0x58 ≤ off) (s : State) : readReg s off = 0 := by
  unfold readReg
  split
  case h_23 => rfl
  all_goals omega

/-- Settles O53: a pending read returns what `readReg` maps. -/
theorem registerReadsReturnTheMap : Obligations.RegisterReadsReturnTheMap := by
  intro s rest off v hin hbase hreset hmap
  obtain ⟨hoff, halign, hval⟩ : off < 256 ∧ off % 4 = 0 ∧ readReg { s with inputs := rest } off = v := by
    obtain hmem | ⟨hlow, hhigh, halign, rfl⟩ := hmap
    · exact readReg_of_mem_registerMap (s := { s with inputs := rest }) hmem
    · exact ⟨by omega, halign, readReg_of_reserved hlow _⟩
  rw [step_of_regRead hin hbase hoff halign, if_neg (ne_true_of_eq_false hreset), hval]

/-- A write of a read-only register or of a reserved offset is ignored (44_engine_control.md R236). -/
theorem writeReg_of_readOnly {off : Nat} (h : off = 0x00 ∨ off = 0x04 ∨ 0x24 ≤ off) (v : Word) (s : State) :
    writeReg off v s = s := by
  unfold writeReg
  split
  case h_8 => rfl
  all_goals omega

/-- Settles O55: a pending write does what `writeReg` says of its register. -/
theorem registerWritesTakeEffectAtOnce : Obligations.RegisterWritesTakeEffectAtOnce := by
  intro s rest off v hin hbase hreset
  have hwrite : ∀ {t : State}, off < 256 → off % 4 = 0 →
      { writeReg off v { s with inputs := rest } with hostData := none } = t → step s = .next t := by
    rintro _ hoff halign rfl
    exact step_of_regWrite hin hbase hoff halign hreset
  refine ⟨?_, ?_, ?_, ?_, ?_, ?_⟩
  · rintro rfl
    exact hwrite (by decide) rfl rfl
  · rintro rfl
    exact hwrite (by decide) rfl rfl
  · rintro rfl
    exact hwrite (by decide) rfl rfl
  · rintro rfl
    exact hwrite (by decide) rfl rfl
  · rintro rfl hbit
    refine hwrite (by decide) rfl ?_
    simp only [writeReg, writeCtrl, BitVec.testBit_toNat, hbit, Bool.false_eq_true, if_false]
  · intro hoff
    have hro := writeReg_of_readOnly (off := off) (by omega) v { s with inputs := rest }
    refine hwrite (by omega) (by omega) ?_
    rw [hro]

/-- What the port answers a pending register access with, whatever the access does (10_state.md R21). -/
theorem step_portAccess {s : State} {rest : List Input} {addr size : Nat} {v : Word}
    (hin : s.inputs = .regRead addr size :: rest ∨ s.inputs = .regWrite addr size v :: rest) :
    ∃ t, step s = portAccess s addr size t := by
  obtain hin | hin := hin <;> rw [step_of_input hin] <;> exact ⟨_, rfl⟩

/-- Settles O57: by the two checks of the port. -/
theorem onlyAlignedWordAccessesAreAdmitted : Obligations.OnlyAlignedWordAccessesAreAdmitted := by
  intro s rest addr size v hin
  obtain ⟨t, ht⟩ := step_portAccess hin
  simp only [ht, portAccess]
  refine ⟨fun hwin hbad => ?_, fun hwin => ?_, fun hwin hsize halign => ⟨t, ?_⟩⟩
  · have hport : portAligned addr size = false := by
      simp only [portAligned, Bool.and_eq_false_iff, decide_eq_false_iff_not]
      exact hbad
    simp only [hwin, hport, if_true, Bool.false_eq_true, if_false]
  · simp only [hwin, Bool.false_eq_true, if_false]
  · simp only [hwin, hsize, halign, portAligned, decide_true, Bool.and_self, if_true]

end Sys2Proof.Machine

/-! PROOFS. The error state and the engine over one step, and the two resets (44_engine_control.md R231-R233,
60_exceptions.md R244, 70_reset_and_hazards.md R271, R272). -/

namespace Sys2Proof.Machine

/-! ### The error state and the engine -/

theorem code_bounds (e : ErrorCode) : 1 ≤ e.code.toNat ∧ e.code.toNat ≤ 11 := by cases e <;> decide

/-- STATUS after a command in flight: DONE is set, and an error is added or not. -/
theorem exec_status {i : Instr} {s t : State} {l : Latched} (hl : s.eng = .busy l) (h : exec i s = .next t) :
    t.status = { s.status with done := true } ∨
      ∃ e : ErrorCode, t.status = { s.status with done := true, err := true, errCode := e.code } := by
  rw [exec_eq_commandBody] at h
  obtain ⟨e, -, rfl⟩ | ⟨-, e, -, -, rfl⟩ | ⟨-, -, rfl⟩ | ⟨-, u, hbody, rfl⟩ := runCommand_cases hl h
  · exact .inr ⟨e, rfl⟩
  · exact .inr ⟨e, by rw [raiseError_status, disturb_status]⟩
  · exact .inr ⟨.bus, by rw [raiseError_status, havoc_status, endSession_status]⟩
  · exact .inl (by rw [complete_status, disturb_status, (commandBody_changesOnlyResults hbody).status_eq])

/-- A command in flight ends with no race left (log entry 8). -/
theorem exec_raced {i : Instr} {s t : State} {l : Latched} (hl : s.eng = .busy l) (h : exec i s = .next t) :
    t.raced = false := by
  rw [exec_eq_commandBody] at h
  obtain ⟨e, -, rfl⟩ | ⟨-, e, -, -, rfl⟩ | ⟨-, -, rfl⟩ | ⟨-, u, hbody, rfl⟩ := runCommand_cases hl h <;> rfl

/-- A state that a command has just left agrees, outside of reset, whichever way the command ended. -/
theorem controlWf_of_ended {s t : State} (hcode : s.status.err = false → s.status.errCode = 0)
    (hok : s.status.err = false) (hreset : t.inReset = false) (hidle : t.eng = .idle) (hraced : t.raced = false)
    (hstatus : t.status = { s.status with done := true } ∨
      ∃ e : ErrorCode, t.status = { s.status with done := true, err := true, errCode := e.code }) : ControlWf t := by
  refine ⟨fun herr => ?_, fun herr => ?_, fun l hl => ?_, fun _ => hraced, fun h => ?_⟩
  · obtain h | ⟨e, h⟩ := hstatus
    · rw [h]
      exact hcode hok
    · rw [h] at herr
      cases herr
  · obtain h | ⟨e, h⟩ := hstatus
    · rw [h] at herr
      exact absurd (hok.symm.trans herr) nofun
    · rw [h]
      exact code_bounds e
  · rw [hidle] at hl
    cases hl
  · exact absurd (hreset.symm.trans h) nofun

/-- A state that holds the reset values agrees. -/
theorem controlWf_of_resetBlock {s : State} (h : resetBlock s = s) : ControlWf s := by
  refine ⟨fun _ => ?_, fun herr => ?_, fun l hl => ?_, fun _ => ?_, fun _ => h⟩
  · rw [← h]
    rfl
  · rw [← h] at herr
    cases herr
  · rw [← h] at hl
    cases hl
  · rw [← h]
    rfl

/-- A reset writes the reset values again (10_state.md R44). -/
theorem resetBlock_reset (s : State) : resetBlock (reset s) = reset s := rfl

/-- A write of STATUS clears ERR with its code, and CMDLOST and DONE alone (10_state.md R31). -/
theorem controlWf_writeStatus {s : State} (h : ControlWf s) (hreset : s.inReset = false) (v : Word) :
    ControlWf (writeStatus v s) := by
  obtain ⟨h1, h2, h3, h4, -⟩ := h
  rw [writeStatus_eq]
  refine ⟨fun herr => ?_, fun herr => ?_, fun l hl => ?_, h4, fun h => absurd (hreset.symm.trans h) nofun⟩
  · cases hbit : v.getLsbD 2 with
    | true => rfl
    | false =>
      simp only [hbit, Bool.not_false, Bool.and_true] at herr
      exact h1 herr
  · obtain ⟨hs, hbit⟩ := Bool.and_eq_true_iff.1 herr
    rw [Bool.not_eq_true'] at hbit
    simpa only [hbit, Bool.false_eq_true, if_false] using h2 hs
  · obtain ⟨hok, hdone, hcmd⟩ := h3 l hl
    exact ⟨by simp [hok], by simp [hdone], hcmd⟩

/-- No command in flight, no byte of it (20_memory.md R73). -/
theorem touchesInFlight_of_idle {s : State} (h : s.eng = .idle) : touchesInFlight s = [] := by
  simp only [touchesInFlight, h]

theorem writesInFlight_of_idle {s : State} (h : s.eng = .idle) : writesInFlight s = [] := by
  simp only [writesInFlight, h]

theorem controlWf_of_move {s t : State} (hwf : ControlWf s) (h : Move s t) : ControlWf t := by
  have hwf' := hwf
  obtain ⟨h1, h2, h3, h4, h5⟩ := hwf'
  have hrest : s.inReset = true → s.eng = .idle := fun hreset => by rw [← h5 hreset]; rfl
  cases h with
  | engine h =>
    obtain ⟨rfl, -⟩ | ⟨l, hreset, hl, ⟨i, -, hi⟩ | ⟨-, rfl⟩⟩ := engineStep_cases h
    · exact hwf
    · obtain ⟨-, -, -, hkeep, -⟩ := exec_keeps hi
      exact controlWf_of_ended h1 (h3 l hl).1 (hkeep.trans hreset) (exec_idle hl hi) (exec_raced hl hi)
        (exec_status hl hi)
    · exact controlWf_of_ended h1 (h3 l hl).1 hreset rfl rfl (.inr ⟨.illegal, rfl⟩)
  | read v => exact ⟨h1, h2, h3, h4, fun h => congrArg (fun u : State => { u with hostData := some v }) (h5 h)⟩
  | @racedRead a v hraced =>
    have hbusy : s.eng ≠ .idle := fun hidle => by simp [writesInFlight_of_idle hidle, regionsHave] at hraced
    exact ⟨h1, h2, h3, fun hidle => absurd hidle hbusy, fun h => absurd (hrest h) hbusy⟩
  | ignoredWrite => exact ⟨h1, h2, h3, h4, fun h => congrArg (fun u : State => { u with hostData := none }) (h5 h)⟩
  | memWrite a b =>
    have hraced : s.eng = .idle → (s.raced || regionsHave (touchesInFlight s) a) = false := fun hidle => by
      simp [touchesInFlight_of_idle hidle, h4 hidle, regionsHave]
    refine ⟨h1, h2, h3, hraced, fun h => ?_⟩
    rw [hraced (hrest h)]
    exact congrArg (fun u : State =>
      { u with memory := Memory.write s.memory a b, hostData := none, raced := false }) (h5 h)
  | resetPin b => exact controlWf_of_resetBlock rfl
  | regWrite off v hreset =>
    have hno : ∀ {P : Prop}, s.inReset = true → P := fun h => absurd (hreset.symm.trans h) nofun
    obtain hw | hw | hw | ⟨k, o, hw⟩ := writeReg_cases off v s <;> rw [hw]
    · exact controlWf_of_resetBlock rfl
    · obtain hi | ⟨hidle, hok, hi⟩ := issue_cases v s <;> rw [hi]
      · exact ⟨h1, h2, h3, h4, hno⟩
      · refine ⟨h1, h2, fun l hl => ⟨hok, rfl, ?_⟩, fun _ => rfl, hno⟩
        cases hl
        rfl
    · obtain ⟨k1, k2, k3, k4, k5⟩ := controlWf_writeStatus hwf hreset v
      refine ⟨k1, k2, k3, k4, fun h => ?_⟩
      rw [writeStatus_eq] at h
      exact hno h
    · exact ⟨h1, h2, h3, h4, hno⟩

/-- Settles O48: every move keeps the agreement. -/
theorem everyStepKeepsControlCoherent : Obligations.EveryStepKeepsControlCoherent := by
  intro s t hwf h
  obtain ⟨h1, h2, h3, h4, h5⟩ := hwf
  refine controlWf_of_move (s := { s with inputs := s.inputs.tail }) ⟨h1, h2, h3, h4, fun hreset => ?_⟩ (move_of_step h)
  exact congrArg (fun u : State => { u with inputs := s.inputs.tail }) (h5 hreset)

/-- Settles O49: the reset values meet the invariants, and the reference polynomials are irreducible by evaluation. -/
theorem resetMeetsTheInvariants : Obligations.ResetMeetsTheInvariants := by
  have hconfig : Config.reference.wellFormed = true := by decide +kernel
  exact ⟨hconfig, ⟨.nil, nofun⟩, decoderWf_reset Config.reference, countsZero_reset _,
    ⟨by decide, by decide, by decide⟩, controlWf_of_resetBlock rfl⟩

/-! ### Reset -/

/-- What an aborted command leaves in memory: free values in the bytes it could have written (70_reset_and_hazards.md
R272). -/
theorem abortInFlight_memory {s : State} (hwf : Memory.wf s.memory) :
    (∀ a, regionsHave (writesInFlight s) a = false → Memory.read (abortInFlight s).memory a = Memory.read s.memory a) ∧
      ∀ a < 2 ^ 32, regionsHave (writesInFlight s) a = true →
        Memory.read (abortInFlight s).memory a = Config.anyByte s.fresh a := by
  obtain ⟨-, hout, hin⟩ := havoc_spec (writesInFlight s) hwf
  exact ⟨hout, fun a hlt ha => hin a ha hlt⟩

theorem abortInFlight_of_idle {s : State} (h : s.eng = .idle) : abortInFlight s = s := by
  rw [abortInFlight, writesInFlight_of_idle h, havoc_nil]

/-- Settles O50: the step is `setResetPin`, whose every field is the reset value or that of the aborted state. -/
theorem hardwareResetGivesTheResetValues : Obligations.HardwareResetGivesTheResetValues := by
  refine ⟨fun s rest b hin => ⟨_, step_of_input hin, rfl, rfl, rfl, rfl, rfl, rfl, rfl, rfl, rfl, rfl, rfl, rfl, rfl, rfl,
    rfl, rfl, rfl, fun r => ⟨pivAt_replicate _ _ r rfl, statAt_replicate _ _ r rfl⟩, rfl, rfl, rfl, rfl, rfl, rfl, ?_, ?_⟩,
    rfl, rfl⟩
  · intro hidle
    have hmem : (abortInFlight { s with inputs := rest }).memory = s.memory := by
      rw [abortInFlight_of_idle (s := { s with inputs := rest }) hidle]
    exact hmem
  · intro hwf
    exact abortInFlight_memory (s := { s with inputs := rest }) hwf

/-- Settles O51: the write is `reset`, whatever its other bits. -/
theorem softResetAbortsAndResets : Obligations.SoftResetAbortsAndResets := by
  intro s rest v hwf hin hbase hreset hbit
  have hreg : ∀ t, writeReg 0x08 v t = reset t := fun t => if_pos hbit
  obtain ⟨hout, hfree⟩ := abortInFlight_memory (s := { s with inputs := rest }) hwf
  refine ⟨(abortInFlight { s with inputs := rest }).memory, (abortInFlight { s with inputs := rest }).fresh, ?_, hout, hfree⟩
  rw [step_of_regWrite hin hbase (by decide) (by decide) hreset, hreg, reset, abortInFlight, havoc_eq]
  rfl

end Sys2Proof.Machine

/-! PROOFS. Races, device regions, and that every command and every run ends (20_memory.md R67, R73,
44_engine_control.md R235, R238). -/

namespace Sys2Proof.Machine

/-! ### Bytes that a race or a device leaves free -/

/-- A body keeps memory in its canonical form. -/
theorem commandBody_wf {i : Instr} {s u : State} {l : Latched} (hwf : Memory.wf s.memory)
    (hpass : checksPass i l s = true) (h : commandBody i s l = .ok u) : Memory.wf u.memory := by
  obtain ⟨u', -, -, hconf⟩ := (commandBody_alike (m' := s.memory)
    (memSim_confined s.config (fun _ => True) (fun _ => True) s.memory s.memory) s.ops s.ctrl s.eng hpass
    (fun _ _ => trivial) (fun _ _ => trivial) (.start hwf hwf fun _ _ => rfl)).exists_ok h
  exact hconf.wf

/-- Two regions with a byte in common meet (00_scope.md R9). -/
theorem regionsMeet_of_common {r q : Region} {a : Nat} (hr : regionHas r a = true) (hq : regionHas q a = true) :
    regionsMeet r q = true := by
  obtain ⟨h1, h2⟩ := (regionHas_iff r a).1 hr
  obtain ⟨h3, h4⟩ := (regionHas_iff q a).1 hq
  simp only [regionsMeet, decide_eq_true_eq]
  omega

/-- A command that the host raced with, or with a buffer byte in a device region, is disturbed (20_memory.md R67, R73). -/
theorem disturbed_of_race_or_device {i : Instr} {s : State} {l : Latched} (hpass : checksPass i l s = true)
    (h : s.raced = true ∨ ∃ b, regionsHave (readBuffers i l s.dec ++ writeBuffers i l s.dec) b = true ∧
      regionsHave s.config.devices b = true) : disturbed i l s = true := by
  rw [disturbed, Bool.or_eq_true, touchesOf, if_pos hpass]
  refine h.imp id ?_
  rintro ⟨b, hbuf, hdev⟩
  obtain ⟨r, hr, hrb⟩ := List.any_eq_true.1 hbuf
  obtain ⟨q, hq, hqb⟩ := List.any_eq_true.1 hdev
  exact List.any_eq_true.2 ⟨r, hr, List.any_eq_true.2 ⟨q, hq, regionsMeet_of_common hrb hqb⟩⟩

/-- A disturbed command leaves free values in every byte it writes, however it ends (20_memory.md R67, R73). -/
theorem read_of_disturbed {i : Instr} {s t : State} {l : Latched} (hwf : Memory.wf s.memory) (hl : s.eng = .busy l)
    (hpass : checksPass i l s = true) (hdist : disturbed i l s = true) (h : exec i s = .next t) {a : Nat}
    (ha : a < 2 ^ 32) (hw : regionsHave (writeBuffers i l s.dec) a = true) :
    Memory.read t.memory a = Config.anyByte s.fresh a := by
  have hwrites : writesOf i l s = writeBuffers i l s.dec := if_pos hpass
  have hfree : ∀ u : State, Memory.wf u.memory → u.fresh = s.fresh →
      Memory.read (havoc (writesOf i l s) u).memory a = Config.anyByte s.fresh a := by
    intro u hu hfresh
    rw [hwrites, ← hfresh]
    exact (havoc_spec _ hu).2.2 a hw ha
  rw [exec_eq_commandBody] at h
  obtain ⟨e, he, -⟩ | ⟨-, e, -, -, rfl⟩ | ⟨-, -, rfl⟩ | ⟨-, u, hbody, rfl⟩ := runCommand_cases hl h
  · rw [checksPass, he, Option.isNone_some] at hpass
    cases hpass
  · rw [raiseError_memory, disturb, if_pos hdist]
    exact hfree s hwf rfl
  · exact hfree (endSession i s) (by rwa [endSession_memory]) (endSession_fresh i s)
  · rw [complete_memory, disturb, if_pos hdist]
    have hu : ChangesOnlyResults s u := commandBody_changesOnlyResults hbody
    exact hfree u (commandBody_wf hwf hpass hbody) (by rw [hu])

/-- Settles O59: the host's two accesses by their definitions, and the bytes of a disturbed command by
`read_of_disturbed`. -/
theorem racedBytesAreFree : Obligations.RacedBytesAreFree := by
  refine ⟨fun s rest a b hin hadm => ?_, fun s rest a hin hadm => ?_, fun i s t l hwf hl hpass hrace h a ha hw => ?_⟩
  · rw [step_of_input hin]
    exact hostAccess_of_admitted (s := { s with inputs := rest }) hadm _
  · have hstep := (step_of_input hin).trans (hostAccess_of_admitted (s := { s with inputs := rest }) hadm _)
    have hsame : writesInFlight { s with inputs := rest } = writesInFlight s := rfl
    rw [hsame] at hstep
    refine ⟨fun hno => ?_, fun hyes => ?_⟩
    · rw [hstep, if_neg (ne_true_of_eq_false hno)]
    · rw [if_pos hyes] at hstep
      exact ⟨_, hstep, rfl, rfl, rfl⟩
  · exact read_of_disturbed hwf hl hpass (disturbed_of_race_or_device hpass hrace) h ha hw

/-! ### Every command and every run ends -/

theorem exec_next (i : Instr) (s : State) : ∃ t, exec i s = .next t := by
  rw [exec_eq_commandBody]
  exact runCommand_next i s _

/-- The engine always moves, and its move takes nothing off the inputs. -/
theorem engineStep_next (s : State) :
    ∃ t, engineStep s = .next t ∧ t.inputs = s.inputs ∧ t.config = s.config ∧ t.inReset = s.inReset := by
  cases hreset : s.inReset with
  | true => exact ⟨s, engineStep_of_reset hreset, rfl, rfl, hreset⟩
  | false =>
    obtain hl | ⟨l, hl⟩ := idle_or_busy s
    · exact ⟨s, engineStep_of_idle hl, rfl, rfl, hreset⟩
    · cases hi : decode l.cmd with
      | none => exact ⟨_, engineStep_of_illegal hreset hl hi, rfl, rfl, hreset⟩
      | some i =>
        obtain ⟨t, ht⟩ := exec_next i s
        obtain ⟨hconfig, -, -, hkeep, hinputs⟩ := exec_keeps ht
        exact ⟨t, (engineStep_of_decode hreset hl hi).trans ht, hinputs, hconfig, hkeep.trans hreset⟩

/-- The engine's move ends the command in flight (44_engine_control.md R233). -/
theorem engineStep_ends {s : State} {l : Latched} (hreset : s.inReset = false) (hl : s.eng = .busy l) :
    ∃ t, engineStep s = .next t ∧ t.eng = .idle ∧ t.status.done = true := by
  cases hi : decode l.cmd with
  | none => exact ⟨_, engineStep_of_illegal hreset hl hi, rfl, rfl⟩
  | some i =>
    obtain ⟨t, ht⟩ := exec_next i s
    refine ⟨t, (engineStep_of_decode hreset hl hi).trans ht, exec_idle hl ht, ?_⟩
    rw [exec_eq_commandBody] at ht
    exact (runCommand_ends hl ht).1

/-- An access in the window that is aligned and 32 bits wide is given its step (10_state.md R21). -/
theorem portAccess_of_admitted {s : State} {addr size : Nat} (h : (inWindow s.config addr && portAligned addr size) = true)
    (t : State) : portAccess s addr size t = .next t := by
  obtain ⟨hwin, hport⟩ := Bool.and_eq_true_iff.1 h
  simp only [portAccess, hwin, hport, if_true]

/-- A register write leaves what is pending, the configuration and the reset input. -/
theorem writeReg_keeps (off : Nat) (v : Word) (s : State) :
    (writeReg off v s).inputs = s.inputs ∧ (writeReg off v s).config = s.config ∧
      (writeReg off v s).inReset = s.inReset := by
  obtain hw | hw | hw | ⟨k, o, hw⟩ := writeReg_cases off v s <;> rw [hw]
  · exact ⟨havoc_inputs _ _, havoc_config _ _, havoc_inReset _ _⟩
  · obtain hi | ⟨-, -, hi⟩ := issue_cases v s <;> rw [hi] <;> exact ⟨rfl, rfl, rfl⟩
  · rw [writeStatus_eq]
    exact ⟨rfl, rfl, rfl⟩
  · exact ⟨rfl, rfl, rfl⟩

/-- A register write that resets nothing leaves a command in flight (44_engine_control.md R236). -/
theorem writeReg_keeps_busy {s : State} {off : Nat} {v : Word} {l : Latched} (hl : s.eng = .busy l)
    (hno : off = 0x08 → v.toNat.testBit 31 = false) : (writeReg off v s).eng = .busy l := by
  unfold writeReg
  split
  · rw [hno rfl, if_neg Bool.false_ne_true]
    exact hl
  · rw [writeStatus_eq]
    exact hl
  · rw [issue_of_busy_or_err (.inl (by simp only [isBusy, hl]))]
    exact hl
  all_goals exact hl

/-- Every input of the kind that gets a step is taken. -/
theorem inputStep_next {s : State} {i : Input} (h : inputAdmitted s.config i = true) :
    ∃ t, inputStep i s = .next t ∧ t.inputs = s.inputs ∧ t.config = s.config := by
  cases i with
  | engine =>
    obtain ⟨t, ht, hin, hconfig, -⟩ := engineStep_next s
    exact ⟨t, ht, hin, hconfig⟩
  | regRead addr size => exact ⟨_, portAccess_of_admitted h _, rfl, rfl⟩
  | regWrite addr size v =>
    refine ⟨_, portAccess_of_admitted h _, ?_⟩
    cases s.inReset with
    | true => exact ⟨rfl, rfl⟩
    | false =>
      obtain ⟨hin, hconfig, -⟩ := writeReg_keeps (addr - s.config.regBase) v s
      exact ⟨hin, hconfig⟩
  | memRead addr =>
    refine ⟨_, hostAccess_of_admitted h _, ?_⟩
    split <;> exact ⟨rfl, rfl⟩
  | memWrite addr b => exact ⟨_, hostAccess_of_admitted h _, rfl, rfl⟩
  | resetPin b => exact ⟨_, rfl, havoc_inputs _ _, havoc_config _ _⟩

/-- While the host's inputs reset nothing, the command in flight stays in flight until the engine moves. -/
theorem inputStep_keeps_busy {s t : State} {i : Input} {l : Latched} (hl : s.eng = .busy l) (hreset : s.inReset = false)
    (hi : i ≠ .engine) (hadm : inputAdmitted s.config i = true) (hno : resetsBlock s.config i = false)
    (h : inputStep i s = .next t) : t.eng = .busy l ∧ t.inReset = false := by
  cases i with
  | engine => exact absurd rfl hi
  | regRead addr size =>
    obtain rfl := eq_of_portAccess_eq_next h
    exact ⟨hl, hreset⟩
  | regWrite addr size v =>
    obtain rfl := eq_of_portAccess_eq_next h
    have hoff : addr - s.config.regBase = 0x08 → v.toNat.testBit 31 = false := by
      intro h8
      have hwin := (Bool.and_eq_true_iff.1 hadm).1
      simp only [inWindow, Bool.and_eq_true, decide_eq_true_eq] at hwin
      have haddr : addr = s.config.regBase + 0x08 := by omega
      simpa [resetsBlock, haddr] using hno
    rw [hreset]
    exact ⟨writeReg_keeps_busy hl hoff, (writeReg_keeps _ v s).2.2.trans hreset⟩
  | memRead addr =>
    obtain rfl := eq_of_hostAccess_eq_next h
    split <;> exact ⟨hl, hreset⟩
  | memWrite addr b =>
    obtain rfl := eq_of_hostAccess_eq_next h
    exact ⟨hl, hreset⟩
  | resetPin b => cases hno

/-- A command in flight is executed by the engine after as many steps as there are inputs before its turn. -/
theorem command_completes (inputs : List Input) :
    ∀ (s : State) (l : Latched), s.inputs = inputs → s.eng = .busy l → s.inReset = false →
      (∀ i ∈ inputs, inputAdmitted s.config i = true ∧ resetsBlock s.config i = false) →
      ∃ n ≤ inputs.length, ∃ u t : State, stepsTo n s u ∧ u.eng = .busy l ∧ engineNext u ∧ step u = .next t ∧
        t.eng = .idle ∧ t.status.done = true := by
  have hnow : ∀ (s : State) (l : Latched), s.eng = .busy l → s.inReset = false → engineNext s →
      ∃ u t : State, stepsTo 0 s u ∧ u.eng = .busy l ∧ engineNext u ∧ step u = .next t ∧ t.eng = .idle ∧
        t.status.done = true := by
    intro s l hl hreset hnext
    obtain ⟨t, ht, hidle, hdone⟩ := engineStep_ends (s := { s with inputs := s.inputs.tail }) hreset hl
    exact ⟨s, t, rfl, hl, hnext, (step_of_engineNext hnext).trans ht, hidle, hdone⟩
  induction inputs with
  | nil =>
    intro s l hin hl hreset _
    exact ⟨0, le_rfl, hnow s l hl hreset (.inl hin)⟩
  | cons i rest ih =>
    intro s l hin hl hreset hall
    by_cases hi : i = .engine
    · exact ⟨0, Nat.zero_le _, hnow s l hl hreset (.inr (by rw [hin, hi]; rfl))⟩
    · obtain ⟨hadm, hno⟩ := hall i List.mem_cons_self
      obtain ⟨s', hs', hin', hconfig⟩ := inputStep_next (s := { s with inputs := rest }) hadm
      obtain ⟨hl', hreset'⟩ := inputStep_keeps_busy (s := { s with inputs := rest }) hl hreset hi hadm hno hs'
      have hconfig' : s'.config = s.config := hconfig
      obtain ⟨n, hn, u, t, hsteps, hu⟩ := ih s' l hin' hl' hreset' fun j hj => by
        rw [hconfig']
        exact hall j (List.mem_cons_of_mem i hj)
      exact ⟨n + 1, Nat.succ_le_succ hn, u, t, ⟨s', (step_of_input hin).trans hs', hsteps⟩, hu⟩

/-- The engine is idle while the reset input is asserted: the move that asserts it stops the command, and none starts. -/
theorem idle_in_reset_of_move {s t : State} (h : Move s t) (hs : s.inReset = true → s.eng = .idle) :
    t.inReset = true → t.eng = .idle := by
  cases h with
  | engine h =>
    obtain ⟨rfl, -⟩ | ⟨l, hreset, hl, ⟨i, -, hi⟩ | ⟨-, rfl⟩⟩ := engineStep_cases h
    · exact hs
    · exact fun _ => exec_idle hl hi
    · exact fun _ => rfl
  | read v => exact hs
  | racedRead v h => exact hs
  | ignoredWrite => exact hs
  | memWrite a b => exact hs
  | resetPin b => exact fun _ => rfl
  | regWrite off v hreset =>
    intro ht
    have hkeep : (writeReg off v s).inReset = true := ht
    rw [(writeReg_keeps off v s).2.2, hreset] at hkeep
    cases hkeep

/-- A run takes every input, and at most one move of the engine after them (44_engine_control.md R238). -/
theorem run_ends (inputs : List Input) :
    ∀ s : State, s.inputs = inputs → (s.inReset = true → s.eng = .idle) →
      (∀ i ∈ inputs, inputAdmitted s.config i = true) → ∃ n ≤ inputs.length + 1, ∃ t, runEnds n s t := by
  induction inputs with
  | nil =>
    intro s hin hs _
    obtain hl | ⟨l, hl⟩ := idle_or_busy s
    · exact ⟨0, Nat.zero_le _, s, rfl, hin, hl⟩
    · have hreset : s.inReset = false := Bool.eq_false_iff.2 fun h => by
        rw [hs h] at hl
        cases hl
      obtain ⟨t, ht, hidle, -⟩ := engineStep_ends (s := { s with inputs := s.inputs.tail }) hreset hl
      obtain ⟨t', ht', hinputs, -⟩ := engineStep_next { s with inputs := s.inputs.tail }
      obtain rfl := Host.Outcome.next.inj (ht.symm.trans ht')
      refine ⟨1, le_rfl, t, stepsTo_one.2 ((step_of_engineNext (.inl hin)).trans ht), ?_, hidle⟩
      rw [hinputs, hin, List.tail_nil]
  | cons i rest ih =>
    intro s hin hs hall
    obtain ⟨s', hs', hin', hconfig⟩ := inputStep_next (s := { s with inputs := rest }) (hall i List.mem_cons_self)
    have hconfig' : s'.config = s.config := hconfig
    have hidle := idle_in_reset_of_move (s := { s with inputs := rest }) (move_of_inputStep hs') hs
    obtain ⟨n, hn, t, ⟨hsteps, hend⟩⟩ := ih s' hin' hidle fun j hj => by
      rw [hconfig']
      exact hall j (List.mem_cons_of_mem i hj)
    exact ⟨n + 1, Nat.succ_le_succ hn, t, ⟨s', (step_of_input hin).trans hs', hsteps⟩, hend⟩

/-- Settles O60: `command_completes` and `run_ends`, over the pending inputs. -/
theorem everyAcceptedCommandCompletes : Obligations.EveryAcceptedCommandCompletes :=
  ⟨fun s l hl hreset hall => command_completes s.inputs s l rfl hl hreset hall,
    fun s hreset hall => run_ends s.inputs s rfl (fun h => absurd (hreset.symm.trans h) nofun) hall⟩

end Sys2Proof.Machine

/-! PROOFS. The order of the checks of the row commands, the fills and the consumes (60_exceptions.md R243,
41_row_combiner.md R140, 42_coeff_generator.md R167, R168, 43_pivot_engine.md R199, R200). -/

namespace Sys2Proof.Machine

/-- The first check that fails ends the command in flight. -/
theorem exec_of_firstError {i : Instr} {s : State} {l : Latched} {e : ErrorCode} (hl : s.eng = .busy l)
    (h : firstError (checks i l s) = some e) : exec i s = .next (failed e.code l s) := by
  rw [exec_eq_commandBody]
  exact runCommand_of_firstError_some hl h _

/-! ### The row commands -/

/-- Two buffers of one length overlap partially when both starts are before the other's end and differ (00_scope.md
R9). -/
theorem rowOverlap_iff (l : Latched) : partialOverlap (rowDst l) (rowSrc l) = true ↔
    l.ops.a0.toNat ≠ l.ops.a1.toNat ∧ 0 < l.ops.a2.toNat ∧ l.ops.a0.toNat < l.ops.a1.toNat + l.ops.a2.toNat ∧
      l.ops.a1.toNat < l.ops.a0.toNat + l.ops.a2.toNat := by
  simp only [partialOverlap, regionsMeet, Bool.and_eq_true, decide_eq_true_eq]
  simp only [rowDst, rowSrc]
  omega

theorem firstError_rowAxpyChecks (f : Field) (l : Latched) :
    firstError (rowAxpyChecks f l) =
      if (2 ^ f.width ≤ l.ops.a3.toNat ∨ 2 ^ 32 < l.ops.a0.toNat + l.ops.a2.toNat) ∨
          2 ^ 32 < l.ops.a1.toNat + l.ops.a2.toNat then some .range
      else if (f = .gf16 ∧ l.ops.a0.toNat % 2 = 1) ∨ (f = .gf16 ∧ l.ops.a1.toNat % 2 = 1) then some .align
      else if f = .gf16 ∧ l.ops.a2.toNat % 2 = 1 then some .len
      else if l.ops.a0.toNat ≠ l.ops.a1.toNat ∧ 0 < l.ops.a2.toNat ∧
          l.ops.a0.toNat < l.ops.a1.toNat + l.ops.a2.toNat ∧ l.ops.a1.toNat < l.ops.a0.toNat + l.ops.a2.toNat then
        some .overlap
      else none := by
  simp only [rowAxpyChecks, firstError, Bool.or_eq_true, Bool.not_eq_true', decide_eq_true_eq, elementOk_eq_false_iff,
    inRange_eq_false_iff, addressAligned_eq_false_iff, mod_bytes_ne_zero_iff, rowOverlap_iff]
  rfl

theorem firstError_rowScaleChecks (f : Field) (l : Latched) :
    firstError (rowScaleChecks f l) =
      if 2 ^ f.width ≤ l.ops.a3.toNat ∨ 2 ^ 32 < l.ops.a0.toNat + l.ops.a2.toNat then some .range
      else if f = .gf16 ∧ l.ops.a0.toNat % 2 = 1 then some .align
      else if f = .gf16 ∧ l.ops.a2.toNat % 2 = 1 then some .len
      else none := by
  simp only [rowScaleChecks, firstError, Bool.or_eq_true, Bool.not_eq_true', decide_eq_true_eq, elementOk_eq_false_iff,
    inRange_eq_false_iff, addressAligned_eq_false_iff, mod_bytes_ne_zero_iff, rowDst]

/-- Settles O18: the first failing condition of the two lists. -/
theorem rowCommandsCheckInOrder : Obligations.RowCommandsCheckInOrder := by
  intro f s l hl dst src len badRange badSrc badDstAlign badSrcAlign badLen
  have haxpy := fun {e : ErrorCode} (h : firstError (rowAxpyChecks f l) = some e) =>
    exec_of_firstError (i := .rowAxpy f) hl h
  have hscale := fun {e : ErrorCode} (h : firstError (rowScaleChecks f l) = some e) =>
    exec_of_firstError (i := .rowScale f) hl h
  rw [firstError_rowAxpyChecks] at haxpy
  rw [firstError_rowScaleChecks] at hscale
  refine ⟨fun h => haxpy (e := .range) (if_pos h), fun h1 h2 => haxpy (e := .align) ?_,
    fun h1 h2 h3 => haxpy (e := .len) ?_, fun h1 h2 h3 h4 => haxpy (e := .overlap) ?_,
    fun h => hscale (e := .range) (if_pos h), fun h1 h2 => hscale (e := .align) ?_,
    fun h1 h2 h3 => hscale (e := .len) ?_⟩
  · rw [if_neg h1, if_pos h2]
  · rw [if_neg h1, if_neg h2, if_pos h3]
  · rw [if_neg h1, if_neg h2, if_neg h3, if_pos h4]
  · rw [if_neg h1, if_pos h2]
  · rw [if_neg h1, if_neg h2, if_pos h3]

/-! ### The fills -/

theorem firstError_genFillChecks (f : Field) (l : Latched) :
    firstError (genFillChecks f l) =
      if 2 ^ 32 < l.ops.a0.toNat + l.ops.a1.toNat * f.bytes then some .range
      else if f = .gf16 ∧ l.ops.a0.toNat % 2 = 1 then some .align
      else none := by
  simp only [genFillChecks, firstError, Bool.not_eq_true', inRange_eq_false_iff, addressAligned_eq_false_iff, fillOut,
    elemRegion]

/-- The buffer and the mask of at least one element are not empty, so they meet when each starts before the other's
end (42_coeff_generator.md R168). -/
theorem fillRegions_meet_iff (f : Field) (l : Latched) :
    (decide (0 < l.ops.a1.toNat) && regionsMeet (fillOut f l) (fillMask l)) = true ↔
      0 < l.ops.a1.toNat ∧ l.ops.a0.toNat < l.ops.a2.toNat + (l.ops.a1.toNat + 7) / 8 ∧
        l.ops.a2.toNat < l.ops.a0.toNat + l.ops.a1.toNat * f.bytes := by
  rw [Bool.and_eq_true, decide_eq_true_eq]
  refine and_congr_right fun hn => regionsMeet_iff_of_nonempty (r := fillOut f l) (q := fillMask l) ?_ ?_
  · exact Nat.mul_pos hn (fieldBytes_pos f)
  · simp only [fillMask]
    omega

theorem firstError_genFillPartialChecks (f : Field) (l : Latched) :
    firstError (genFillPartialChecks f l) =
      if 2 ^ 32 < l.ops.a0.toNat + l.ops.a1.toNat * f.bytes ∨ 2 ^ 32 < l.ops.a2.toNat + (l.ops.a1.toNat + 7) / 8 then
        some .range
      else if f = .gf16 ∧ l.ops.a0.toNat % 2 = 1 then some .align
      else if 0 < l.ops.a1.toNat ∧ l.ops.a0.toNat < l.ops.a2.toNat + (l.ops.a1.toNat + 7) / 8 ∧
          l.ops.a2.toNat < l.ops.a0.toNat + l.ops.a1.toNat * f.bytes then some .overlap
      else none := by
  simp only [genFillPartialChecks, firstError, Bool.or_eq_true, Bool.not_eq_true', inRange_eq_false_iff,
    addressAligned_eq_false_iff, fillRegions_meet_iff]
  rfl

/-- Settles O24: the first failing condition of the two lists. -/
theorem fillCommandsCheckInOrder : Obligations.FillCommandsCheckInOrder := by
  intro f s l hl out bytes mk mb badAlign
  have hfill := fun {e : ErrorCode} (h : firstError (genFillChecks f l) = some e) =>
    exec_of_firstError (i := .genFill f) hl h
  have hpartial := fun {e : ErrorCode} (h : firstError (genFillPartialChecks f l) = some e) =>
    exec_of_firstError (i := .genFillPartial f) hl h
  rw [firstError_genFillChecks] at hfill
  rw [firstError_genFillPartialChecks] at hpartial
  refine ⟨fun h => hfill (e := .range) (if_pos h), fun h1 h2 => hfill (e := .align) ?_,
    fun h => hpartial (e := .range) (if_pos h), fun h1 h2 h3 => hpartial (e := .align) ?_,
    fun h1 h2 h3 h4 => hpartial (e := .overlap) ?_⟩
  · rw [if_neg (not_lt.2 h1), if_pos h2]
  · rw [if_neg (not_or.2 ⟨not_lt.2 h1, not_lt.2 h2⟩), if_pos h3]
  · rw [if_neg (not_or.2 ⟨not_lt.2 h1, not_lt.2 h2⟩), if_neg h3, if_pos h4]

/-! ### The consumes -/

/-- The checks of DEC_CONSUME in a session, the command's field that of the session (R199). -/
theorem firstError_decConsumeChecks {d : Decoder} (hinit : d.init = true) (l : Latched) :
    firstError (decConsumeChecks d.dfield d l) =
      if 2 ^ 32 < l.ops.a0.toNat + d.dn.toNat * d.dfield.bytes ∨ 2 ^ 32 < l.ops.a1.toNat + d.ds.toNat then some .range
      else if d.dfield = .gf16 ∧ (l.ops.a0.toNat % 2 = 1 ∨ l.ops.a1.toNat % 2 = 1) then some .align
      else if (regionsMeet (consumeVector d l) (coefRegion d) = true ∨
            regionsMeet (consumeVector d l) (symRegion d) = true) ∨
          regionsMeet (consumeSymbol d l) (coefRegion d) = true ∨
            regionsMeet (consumeSymbol d l) (symRegion d) = true then some .overlap
      else none := by
  rw [decConsumeChecks, firstError_append, firstError_sessionChecks, if_neg (ne_false_of_eq_true hinit),
    if_neg (not_not_intro rfl), Option.none_or]
  simp only [firstError, Bool.or_eq_true, Bool.not_eq_true', inRange_eq_false_iff, addressAligned_eq_false_iff,
    meetsMatrix, ← and_or_left]
  rfl

/-- The checks of DEC_CONSUME_SYS in a session, the command's field that of the session (R200). -/
theorem firstError_decConsumeSysChecks {d : Decoder} (hinit : d.init = true) (l : Latched) :
    firstError (decConsumeSysChecks d.dfield d l) =
      if d.dn.toNat ≤ l.ops.a0.toNat ∨ 2 ^ 32 < l.ops.a1.toNat + d.ds.toNat then some .range
      else if d.dfield = .gf16 ∧ l.ops.a1.toNat % 2 = 1 then some .align
      else if regionsMeet (consumeSymbol d l) (coefRegion d) = true ∨
          regionsMeet (consumeSymbol d l) (symRegion d) = true then some .overlap
      else none := by
  rw [decConsumeSysChecks, firstError_append, firstError_sessionChecks, if_neg (ne_false_of_eq_true hinit),
    if_neg (not_not_intro rfl), Option.none_or]
  simp only [firstError, Bool.or_eq_true, Bool.not_eq_true', decide_eq_true_eq, inRange_eq_false_iff,
    addressAligned_eq_false_iff, meetsMatrix]
  rfl

/-- Settles O28: the first failing condition of the two lists, after those of the session. -/
theorem consumeCommandsCheckInOrder : Obligations.ConsumeCommandsCheckInOrder := by
  intro s l hl hinit f a0 sp n badSym badRange badAlign badSymAlign cvMeets spMeets
  have hconsume := fun {e : ErrorCode} (h : firstError (decConsumeChecks f s.dec l) = some e) =>
    exec_of_firstError (i := .decConsume f) hl h
  have hsys := fun {e : ErrorCode} (h : firstError (decConsumeSysChecks f s.dec l) = some e) =>
    exec_of_firstError (i := .decConsumeSys f) hl h
  rw [firstError_decConsumeChecks hinit] at hconsume
  rw [firstError_decConsumeSysChecks hinit] at hsys
  refine ⟨fun h => hconsume (e := .range) (if_pos h), fun h1 h2 => hconsume (e := .align) ?_,
    fun h1 h2 h3 => hconsume (e := .overlap) ?_, fun h => hsys (e := .range) (if_pos h),
    fun h1 h2 => hsys (e := .align) ?_, fun h1 h2 h3 => hsys (e := .overlap) ?_⟩
  · rw [if_neg h1, if_pos h2]
  · rw [if_neg h1, if_neg h2, if_pos h3]
  · rw [if_neg h1, if_pos h2]
  · rw [if_neg h1, if_neg h2, if_pos h3]

end Sys2Proof.Machine

/-! PROOFS. The bits of STATUS, CTRL and CAPS (10_state.md R27-R30), and the threshold of a density
(42_coeff_generator.md R163). -/

namespace Sys2Proof.Machine

/-! ### Bits of a register word -/

theorem flag_lt (b : Bool) (j : Nat) : flag b j < 2 ^ (j + 1) := by
  have hpow : 2 ^ j < 2 ^ (j + 1) := Nat.pow_lt_pow_right (by decide) j.lt_succ_self
  unfold flag
  split
  · exact hpow
  · exact (Nat.two_pow_pos j).trans hpow

/-- A flag above the bits of a number keeps them below the bit after it. -/
theorem add_flag_lt {n j : Nat} (h : n < 2 ^ j) (b : Bool) : n + flag b j < 2 ^ (j + 1) := by
  have hpow : 2 ^ (j + 1) = 2 ^ j + 2 ^ j := by rw [Nat.pow_succ, Nat.mul_two]
  unfold flag
  split <;> omega

/-- A flag above the bits of a number is its bit there, and changes none of them. -/
theorem testBit_add_flag {n j : Nat} (h : n < 2 ^ j) (b : Bool) (k : Nat) :
    (n + flag b j).testBit k = if k = j then b else n.testBit k := by
  have hsum : n + flag b j = 2 ^ j * b.toNat + n := by
    cases b <;> simp [flag, Nat.add_comm]
  rw [hsum, Nat.testBit_two_pow_mul_add _ h]
  split
  · next hlt => rw [if_neg (Nat.ne_of_lt hlt)]
  · next hge =>
    split
    · next heq => cases b <;> simp [heq]
    · next hne =>
      have hbit : n.testBit k = false := Nat.testBit_lt_two_pow (h.trans_le (Nat.pow_le_pow_right (by decide) (by omega)))
      obtain ⟨i, hi⟩ : ∃ i, k - j = i + 1 := ⟨k - j - 1, by omega⟩
      rw [hbit, hi, Nat.testBit_succ]
      cases b <;> simp

/-- The bits of STATUS below ERRCODE (10_state.md R30). -/
def statusFlags (s : State) : Nat :=
  flag (isBusy s) 0 + flag s.status.done 1 + flag s.status.err 2 + flag s.status.cmdLost 3 +
    flag s.dec.dep 4 + flag s.dec.init 5 + flag (isComplete s) 6 + flag (isPartiallyComplete s) 7 +
    flag (fieldBit s.dec.dfield) 8

theorem testBit_statusFlags (s : State) (k : Nat) :
    statusFlags s < 2 ^ 9 ∧ (statusFlags s).testBit k =
      if k = 8 then fieldBit s.dec.dfield else if k = 7 then isPartiallyComplete s else if k = 6 then isComplete s
      else if k = 5 then s.dec.init else if k = 4 then s.dec.dep else if k = 3 then s.status.cmdLost
      else if k = 2 then s.status.err else if k = 1 then s.status.done else if k = 0 then isBusy s else false := by
  have h0 := flag_lt (isBusy s) 0
  have h1 := add_flag_lt h0 s.status.done
  have h2 := add_flag_lt h1 s.status.err
  have h3 := add_flag_lt h2 s.status.cmdLost
  have h4 := add_flag_lt h3 s.dec.dep
  have h5 := add_flag_lt h4 s.dec.init
  have h6 := add_flag_lt h5 (isComplete s)
  have h7 := add_flag_lt h6 (isPartiallyComplete s)
  refine ⟨add_flag_lt h7 _, ?_⟩
  have hzero := testBit_add_flag (n := 0) (j := 0) (by decide) (isBusy s) k
  rw [Nat.zero_add, Nat.zero_testBit] at hzero
  rw [statusFlags, testBit_add_flag h7, testBit_add_flag h6, testBit_add_flag h5, testBit_add_flag h4,
    testBit_add_flag h3, testBit_add_flag h2, testBit_add_flag h1, testBit_add_flag h0, hzero]

theorem getLsbD_statusWord (s : State) {k : Nat} (hk : k < 32) :
    (statusWord s).getLsbD k =
      if k < 16 then (statusFlags s).testBit k else s.status.errCode.getLsbD (k - 16) := by
  have hlow : statusFlags s < 2 ^ 16 := (testBit_statusFlags s k).1.trans (by decide)
  have hsum : statusFlags s + s.status.errCode.toNat * 2 ^ 16 = 2 ^ 16 * s.status.errCode.toNat + statusFlags s := by
    omega
  rw [statusWord, BitVec.getLsbD_ofNat, decide_eq_true hk, Bool.true_and]
  exact (congrArg (Nat.testBit · k) hsum).trans (Nat.testBit_two_pow_mul_add _ hlow k)

theorem getLsbD_ctrlWord (s : State) {k : Nat} (hk : k < 32) :
    (ctrlWord s).getLsbD k =
      if k = 2 then s.ctrl.sysdup else if k = 1 then s.ctrl.su else if k = 0 then s.ctrl.ie else false := by
  have h0 := flag_lt s.ctrl.ie 0
  have h1 := add_flag_lt h0 s.ctrl.su
  have hzero := testBit_add_flag (n := 0) (j := 0) (by decide) s.ctrl.ie k
  rw [Nat.zero_add, Nat.zero_testBit] at hzero
  rw [ctrlWord, BitVec.getLsbD_ofNat, decide_eq_true hk, Bool.true_and, testBit_add_flag h1, testBit_add_flag h0, hzero]

theorem getLsbD_capsWord (c : Config) {k : Nat} (hk : k < 32) :
    (capsWord c).getLsbD k =
      if k = 17 then true else if k = 16 then true else decide (k < 16) && c.nmax.testBit k := by
  have h0 : c.nmax % 2 ^ 16 < 2 ^ 16 := Nat.mod_lt _ (Nat.two_pow_pos 16)
  have h1 := add_flag_lt h0 true
  rw [capsWord, BitVec.getLsbD_ofNat, decide_eq_true hk, Bool.true_and, testBit_add_flag h1, testBit_add_flag h0,
    Nat.testBit_mod_two_pow]

/-- Settles O54: the flags of each word stand at different bits, and the other fields beside them. -/
theorem statusCtrlAndCapsBits : Obligations.StatusCtrlAndCapsBits := by
  intro s k hk
  have hcode : 8 ≤ k - 16 → s.status.errCode.getLsbD (k - 16) = false := fun h => BitVec.getLsbD_of_ge _ _ h
  have hfield : fieldBit s.dec.dfield = decide (s.dec.dfield = .gf16) := by cases s.dec.dfield <;> rfl
  rw [getLsbD_statusWord s hk, (testBit_statusFlags s k).2, getLsbD_ctrlWord s hk, getLsbD_capsWord s.config hk, hfield]
  refine ⟨?_, ?_, ?_⟩
  · obtain hlow | hlow := Nat.lt_or_ge k 16
    · rw [if_pos hlow]
      interval_cases k <;> rfl
    · obtain ⟨i, rfl⟩ := Nat.exists_eq_add_of_le' hlow
      rw [if_neg (Nat.not_lt.2 hlow), Nat.add_sub_cancel]
      rw [Nat.add_sub_cancel] at hcode
      by_cases hi : i < 8
      · simp [show i + 16 < 24 by omega]
      · simp [hcode (not_lt.1 hi)]
  · obtain hlow | hlow := Nat.lt_or_ge k 3
    · interval_cases k <;> rfl
    · simp only [show k ≠ 0 by omega, show k ≠ 1 by omega, show k ≠ 2 by omega, if_false]
  · split_ifs <;> simp_all

/-! ### The threshold of a density -/

/-- The quotient by 2^150 of a significand at exponent `e`, scaled by 2^32, as the shift that the model makes (R163). -/
theorem scaled_significand (sig e : Nat) :
    sig * 2 ^ e * 2 ^ 32 / 2 ^ 150 = if 118 ≤ e then sig <<< (e - 118) else sig >>> (118 - e) := by
  split
  · next he =>
    have hpow : sig * 2 ^ e * 2 ^ 32 = sig * 2 ^ (e - 118) * 2 ^ 150 := by
      simp only [Nat.mul_assoc, ← Nat.pow_add]
      congr 2
      omega
    rw [hpow, Nat.mul_div_cancel _ (Nat.two_pow_pos 150), Nat.shiftLeft_eq]
  · next he =>
    have hpow : (2 : Nat) ^ 150 = 2 ^ (118 - e) * 2 ^ (e + 32) := by
      rw [← Nat.pow_add]
      congr 1
      omega
    rw [hpow, Nat.mul_assoc, ← Nat.pow_add, Nat.mul_div_mul_right _ _ (Nat.two_pow_pos _), Nat.shiftRight_eq_div_pow]

/-- A significand of 24 bits shifted for an exponent below that of 1.0 (R163). -/
theorem shifted_significand_le {sig e : Nat} (hsig : sig ≤ 2 ^ 24 - 1) (he : e ≤ 126) :
    (if 118 ≤ e then sig <<< (e - 118) else sig >>> (118 - e)) ≤ 0xFFFFFF00 := by
  split
  · rw [Nat.shiftLeft_eq]
    calc
      sig * 2 ^ (e - 118) ≤ (2 ^ 24 - 1) * 2 ^ 8 :=
        Nat.mul_le_mul hsig (Nat.pow_le_pow_right (by decide) (by omega))
      _ = 0xFFFFFF00 := by norm_num
  · rw [Nat.shiftRight_eq_div_pow]
    exact (Nat.div_le_self _ _).trans (hsig.trans (by norm_num))

/-- Settles O19: the exponent is the word's bits 30:23, and a shift by it is a product or a quotient by a power of 2. -/
theorem densityThresholdIsTheFloor : Obligations.DensityThresholdIsTheFloor := by
  intro d
  have hok : densityOk d = true ↔ 0x00000001 ≤ d.toNat ∧ d.toNat ≤ 0x3F800000 := by
    simp only [densityOk, Bool.and_eq_true, decide_eq_true_eq]
  refine ⟨hok, fun h => if_pos h, fun h hne => ?_⟩
  obtain ⟨-, hle⟩ := hok.1 h
  have hexp : d.toNat / 2 ^ 23 % 256 = d.toNat / 2 ^ 23 := Nat.mod_eq_of_lt (by omega)
  have hexple : d.toNat / 2 ^ 23 ≤ 126 := by omega
  simp only [threshold, if_neg hne, hexp, BitVec.toNat_ofNat, true_and]
  by_cases hsub : d.toNat / 2 ^ 23 = 0
  · have hsmall : d.toNat * 2 ^ 32 / 2 ^ 149 = 0 := Nat.div_eq_of_lt (by omega)
    simp only [if_pos hsub, hsmall]
    decide
  · have hbound := shifted_significand_le (sig := 2 ^ 23 + d.toNat % 2 ^ 23) (by omega) hexple
    rw [if_neg hsub, if_neg hsub, scaled_significand, Nat.mod_eq_of_lt (hbound.trans_lt (by decide))]
    exact ⟨rfl, hbound⟩

end Sys2Proof.Machine

/-! PROOFS. The product of gf_mul bit by bit: a polynomial product, and its remainder (40_gf_arith.md R110, R112). -/

namespace Sys2Proof.Machine

/-! ### The carry-less product -/

/-- Coefficient `n` of the product of `a` and the low `k` bits of `b`. -/
theorem testBit_clmul (a b k n : Nat) : (clmul a b k).testBit n = productBit k a b n := by
  induction k with
  | zero => exact Nat.zero_testBit n
  | succ k ih =>
    have hcount := List.countP_singleton (a := k) (p := fun j => b.testBit j && decide (j ≤ n) && a.testBit (n - j))
    unfold productBit at ih ⊢
    rw [List.range_succ, List.countP_append, hcount]
    generalize (List.range k).countP _ = m at ih ⊢
    rw [clmul]
    split
    · next hb =>
      rw [Nat.testBit_xor, Nat.testBit_shiftLeft, ih, hb, Bool.true_and]
      have hparity : decide ((m + 1) % 2 = 1) = !decide (m % 2 = 1) := by
        obtain h | h := Nat.mod_two_eq_zero_or_one m <;> simp [Nat.add_mod, h]
      split
      · next h => rw [hparity, h, Bool.xor_true]
      · next h => rw [Bool.eq_false_iff.2 h, Bool.xor_false, Nat.add_zero]
    · next hb => rw [ih, Bool.eq_false_iff.2 hb, Bool.false_and, Bool.false_and, if_neg Bool.false_ne_true, Nat.add_zero]

/-- The product depends on the low `k` bits of its second factor only. -/
theorem clmul_congr {a b b' k : Nat} (h : ∀ j < k, b.testBit j = b'.testBit j) : clmul a b k = clmul a b' k := by
  induction k with
  | zero => rfl
  | succ k ih => rw [clmul, clmul, h k k.lt_succ_self, ih fun j hj => h j (Nat.lt_succ_of_lt hj)]

/-- Bits that are 0 add nothing to the product. -/
theorem clmul_succ_of_lt {b k : Nat} (h : b < 2 ^ k) (a : Nat) : clmul a b (k + 1) = clmul a b k := by
  rw [clmul, Nat.testBit_lt_two_pow h, if_neg Bool.false_ne_true]

theorem clmul_lt {w a : Nat} (ha : a < 2 ^ w) (b k : Nat) : clmul a b k < 2 ^ (w + (k - 1)) := by
  induction k with
  | zero => exact Nat.two_pow_pos _
  | succ k ih =>
    have hle : 2 ^ (w + (k - 1)) ≤ 2 ^ (w + k) := Nat.pow_le_pow_right (by decide) (by omega)
    rw [clmul, Nat.add_sub_cancel]
    split
    · refine Nat.xor_lt_two_pow (ih.trans_le hle) ?_
      rw [Nat.shiftLeft_eq, Nat.pow_add]
      exact Nat.mul_lt_mul_of_pos_right ha (Nat.two_pow_pos k)
    · exact ih.trans_le hle

/-! ### The remainder -/

/-- The bits of a polynomial of degree `w`, from w on. -/
theorem testBit_of_degree {w p : Nat} (hp : p >>> w = 1) {i : Nat} (hi : w ≤ i) : p.testBit i = decide (i = w) := by
  obtain ⟨j, rfl⟩ := Nat.exists_eq_add_of_le hi
  rw [← Nat.testBit_shiftRight, hp]
  cases j <;> simp [Nat.testBit_succ]

/-- A reduction adds a multiple of the polynomial. -/
theorem reduceFrom_eq (w p r n : Nat) : ∃ q < 2 ^ n, reduceFrom w p r n = r ^^^ clmul p q n := by
  induction n generalizing r with
  | zero => exact ⟨0, by decide, (Nat.xor_zero r).symm⟩
  | succ n ih =>
    have hpow : 2 ^ (n + 1) = 2 ^ n + 2 ^ n := by rw [Nat.pow_succ, Nat.mul_two]
    rw [reduceFrom]
    split
    · obtain ⟨q, hq, heq⟩ := ih (r ^^^ (p <<< n))
      refine ⟨2 ^ n + q, by omega, ?_⟩
      have hbit : (2 ^ n + q).testBit n = true := by
        rw [Nat.testBit_two_pow_add_eq, Nat.testBit_lt_two_pow hq, Bool.not_false]
      have hlow : clmul p (2 ^ n + q) n = clmul p q n :=
        clmul_congr fun j hj => Nat.testBit_two_pow_add_gt hj q
      rw [heq, clmul, if_pos hbit, hlow, Nat.xor_assoc, Nat.xor_comm (p <<< n)]
    · obtain ⟨q, hq, heq⟩ := ih r
      exact ⟨q, by omega, by rw [heq, clmul_succ_of_lt hq]⟩

/-- A reduction by a polynomial of degree `w` leaves a remainder of degree below w. -/
theorem reduceFrom_lt {w p : Nat} (hp : p >>> w = 1) {r n : Nat} (hr : r < 2 ^ (w + n)) : reduceFrom w p r n < 2 ^ w := by
  induction n generalizing r with
  | zero => exact hr
  | succ n ih =>
    refine ih (Nat.lt_pow_two_of_testBit _ fun i hi => ?_)
    obtain rfl | hlt := Nat.eq_or_lt_of_le hi
    · split
      · next hbit =>
        rw [Nat.testBit_xor, hbit, Nat.testBit_shiftLeft, Nat.add_sub_cancel, testBit_of_degree hp le_rfl]
        simp
      · next hbit => exact Bool.eq_false_iff.2 hbit
    · have hbit : r.testBit i = false := Nat.testBit_lt_two_pow (hr.trans_le (Nat.pow_le_pow_right (by decide) hlt))
      split
      · rw [Nat.testBit_xor, hbit, Nat.testBit_shiftLeft, testBit_of_degree hp (by omega)]
        have hne : i - n ≠ w := by omega
        simp [hne]
      · exact hbit

/-- The trial divisions of `irreducible` are reductions (R110). -/
theorem polyRem_eq_reduceFrom (deg d r n : Nat) : polyRem deg d r n = reduceFrom deg d r n := by
  induction n generalizing r with
  | zero => rfl
  | succ n ih => exact ih _

/-! ### gf_mul -/

/-- An admitted configuration's polynomials are irreducible of their degrees (R110). -/
theorem irreducible_poly {c : Config} (h : c.wellFormed = true) (f : Field) : irreducible f.width (c.poly f) = true := by
  simp only [Config.wellFormed, Bool.and_eq_true] at h
  cases f with
  | gf8 => exact h.1.2
  | gf16 => exact h.2

theorem degree_of_irreducible {w p : Nat} (h : irreducible w p = true) : p >>> w = 1 := by
  simp only [irreducible, Bool.and_eq_true, decide_eq_true_eq] at h
  exact h.1

theorem width_pos (f : Field) : 0 < f.width := by cases f <;> decide

section
variable {c : Config} {f : Field} (hc : c.wellFormed = true) {a : Nat} (ha : a < 2 ^ f.width) (b : Nat)
include hc ha

theorem gfMul_lt : gfMul c f a b < 2 ^ f.width :=
  reduceFrom_lt (degree_of_irreducible (irreducible_poly hc f)) (clmul_lt ha b f.width)

end

/-- gf_mul is the carry-less product with a multiple of the polynomial added. -/
theorem gfMul_eq_clmul (c : Config) (f : Field) (a b : Nat) :
    ∃ q < 2 ^ f.width, gfMul c f a b = clmul a b f.width ^^^ clmul (c.poly f) q f.width := by
  obtain ⟨q, hq, heq⟩ := reduceFrom_eq f.width (c.poly f) (clmul a b f.width) (f.width - 1)
  have hwidth : f.width - 1 + 1 = f.width := Nat.succ_pred_eq_of_pos (width_pos f)
  have hlast : clmul (c.poly f) q f.width = clmul (c.poly f) q (f.width - 1) := by
    conv_lhs => rw [← hwidth, clmul_succ_of_lt hq]
  exact ⟨q, hq.trans_le (Nat.pow_le_pow_right (by decide) (Nat.sub_le _ _)), by rw [hlast, gfMul, heq]⟩

/-- Settles O14: the two loops of gf_mul, as products bit by bit. -/
theorem productIsReducedModuloThePolynomial : Obligations.ProductIsReducedModuloThePolynomial := by
  intro c f a b hc ha _
  obtain ⟨q, hq, heq⟩ := gfMul_eq_clmul c f a b
  refine ⟨gfMul_lt hc ha b, q, hq, fun n => ?_⟩
  rw [heq, Nat.testBit_xor, testBit_clmul, testBit_clmul]

end Sys2Proof.Machine

/-! PROOFS. The field of the model (40_gf_arith.md R115): numbers below 2^w are the elements of GF(2)[x] modulo the
polynomial, so the laws of a field hold of gf_add, gf_mul and gf_inv. -/

namespace Sys2Proof.Machine

open Polynomial

/-! ### Numbers as polynomials over GF(2) -/

/-- The polynomial over GF(2) a number stands for: bit i is the coefficient of x^i (R110). -/
noncomputable def bitsPoly (n : Nat) : (ZMod 2)[X] := ∑ i ∈ Finset.range n with n.testBit i = true, X ^ i

@[simp] theorem coeff_bitsPoly (n i : Nat) : (bitsPoly n).coeff i = if n.testBit i then 1 else 0 := by
  have hlt : n.testBit i = true → i < n := fun h => Nat.lt_two_pow_self.trans_le (Nat.ge_two_pow_of_testBit h)
  simp only [bitsPoly, finsetSum_coeff, coeff_X_pow, Finset.sum_ite_eq, Finset.mem_filter, Finset.mem_range,
    and_iff_right_of_imp hlt]

theorem bitsPoly_injective : Function.Injective bitsPoly := fun a b h => Nat.eq_of_testBit_eq fun i => by
  have hcoeff := congrArg (fun q => q.coeff i) h
  cases ha : a.testBit i <;> cases hb : b.testBit i <;> simp [ha, hb] at hcoeff ⊢

@[simp] theorem bitsPoly_zero : bitsPoly 0 = 0 := by ext i; simp

@[simp] theorem bitsPoly_one : bitsPoly 1 = 1 := by
  ext i
  cases i <;> simp [coeff_one, Nat.testBit_succ]

@[simp] theorem bitsPoly_xor (a b : Nat) : bitsPoly (a ^^^ b) = bitsPoly a + bitsPoly b := by
  ext i
  rw [coeff_add, coeff_bitsPoly, coeff_bitsPoly, coeff_bitsPoly, Nat.testBit_xor]
  cases a.testBit i <;> cases b.testBit i <;> decide

@[simp] theorem bitsPoly_shiftLeft (a k : Nat) : bitsPoly (a <<< k) = bitsPoly a * X ^ k := by
  ext i
  rw [coeff_mul_X_pow', coeff_bitsPoly, coeff_bitsPoly, Nat.testBit_shiftLeft]
  by_cases h : k ≤ i <;> simp [h]

theorem degree_bitsPoly_lt {n k : Nat} (h : n < 2 ^ k) : (bitsPoly n).degree < k := by
  refine (degree_lt_iff_coeff_zero _ _).2 fun i hi => ?_
  rw [coeff_bitsPoly, Nat.testBit_lt_two_pow (h.trans_le (Nat.pow_le_pow_right (by decide) hi)),
    if_neg Bool.false_ne_true]

/-- Every polynomial of degree below `k` is that of a number below 2^k. -/
theorem exists_bitsPoly_eq {q : (ZMod 2)[X]} {k : Nat} (h : q.degree < k) : ∃ n < 2 ^ k, bitsPoly n = q := by
  let bits : Fin k → Bool := fun i => decide (q.coeff i = 1)
  refine ⟨Nat.ofBits bits, Nat.ofBits_lt_two_pow bits, Polynomial.ext fun i => ?_⟩
  rw [coeff_bitsPoly]
  obtain hi | hi := lt_or_ge i k
  · rw [Nat.testBit_ofBits_lt bits i hi]
    have hbit : ∀ x : ZMod 2, (if decide (x = 1) = true then 1 else 0) = x := by decide
    exact hbit _
  · rw [Nat.testBit_ofBits_ge bits i hi, if_neg Bool.false_ne_true, (degree_lt_iff_coeff_zero _ _).1 h i hi]

/-- The carry-less product is the product of the polynomials. -/
theorem bitsPoly_clmul (a : Nat) {b k : Nat} (hb : b < 2 ^ k) :
    bitsPoly (clmul a b k) = bitsPoly a * bitsPoly b := by
  have hsum : ∀ k, bitsPoly (clmul a b k) = bitsPoly a * ∑ i ∈ Finset.range k with b.testBit i = true, X ^ i := by
    intro k
    induction k with
    | zero => simp [clmul]
    | succ k ih =>
      rw [clmul, Finset.range_add_one, Finset.filter_insert]
      split
      · rw [bitsPoly_xor, bitsPoly_shiftLeft, ih, Finset.sum_insert (by simp), mul_add, add_comm]
      · exact ih
  rw [hsum]
  congr 1
  ext i
  rw [coeff_bitsPoly, finsetSum_coeff]
  have hlt : b.testBit i = true → i < k := fun h =>
    (Nat.pow_lt_pow_iff_right (by decide)).1 ((Nat.ge_two_pow_of_testBit h).trans_lt hb)
  simp only [coeff_X_pow, Finset.sum_ite_eq, Finset.mem_filter, Finset.mem_range, and_iff_right_of_imp hlt]

/-! ### The polynomial of an admitted configuration -/

section
variable {w p : Nat} (hp : p >>> w = 1)
include hp

theorem lt_of_degree : p < 2 ^ (w + 1) := by
  have h := (Nat.shiftRight_eq_div_pow p w).symm.trans hp
  have hlt := Nat.lt_mul_div_succ p (Nat.two_pow_pos w)
  rwa [h] at hlt

theorem monic_bitsPoly : (bitsPoly p).Monic ∧ (bitsPoly p).natDegree = w := by
  have hcoeff : (bitsPoly p).coeff w = 1 := by
    rw [coeff_bitsPoly, testBit_of_degree hp le_rfl]; simp
  have hle : (bitsPoly p).natDegree ≤ w := Nat.lt_succ_iff.1
    (natDegree_lt_iff_degree_lt (fun h => by simp [h] at hcoeff) |>.2 (degree_bitsPoly_lt (lt_of_degree hp)))
  exact ⟨monic_of_natDegree_le_of_coeff_eq_one w hle hcoeff,
    le_antisymm hle (le_natDegree_of_ne_zero (by rw [hcoeff]; exact one_ne_zero))⟩

end

/-- A division leaves the polynomial up to a multiple of the divisor. -/
theorem dvd_bitsPoly_reduceFrom (w p r n : Nat) : bitsPoly p ∣ bitsPoly (reduceFrom w p r n) - bitsPoly r := by
  obtain ⟨q, hq, heq⟩ := reduceFrom_eq w p r n
  exact ⟨bitsPoly q, by rw [heq, bitsPoly_xor, add_sub_cancel_left, bitsPoly_clmul p hq]⟩

/-- The trial divisions of `irreducible` find every divisor (R110). -/
theorem irreducible_bitsPoly {w p : Nat} (hw : 0 < w) (h : irreducible w p = true) : Irreducible (bitsPoly p) := by
  have hdeg := degree_of_irreducible h
  obtain ⟨hmonic, hnat⟩ := monic_bitsPoly hdeg
  have hone : bitsPoly p ≠ 1 := fun h1 => by rw [h1, natDegree_one] at hnat; omega
  rw [hmonic.irreducible_iff_lt_natDegree_lt hone]
  intro q hq hqdeg hdvd
  rw [hnat, Finset.mem_Ioc] at hqdeg
  obtain ⟨k, hk⟩ : ∃ k, q.natDegree = k + 1 := Nat.exists_eq_succ_of_ne_zero (by omega)
  have hqlt : q.degree < (k + 2 : Nat) := by
    rw [degree_eq_natDegree hq.ne_zero, hk]; exact_mod_cast Nat.lt_succ_self _
  obtain ⟨d, hd, rfl⟩ := exists_bitsPoly_eq hqlt
  have hlead : d.testBit (k + 1) = true := by
    by_contra hc
    have := hq.coeff_natDegree
    rw [hk, coeff_bitsPoly, if_neg hc] at this
    exact zero_ne_one this
  have hge := Nat.ge_two_pow_of_testBit hlead
  have hd1 : d >>> (k + 1) = 1 := by
    rw [Nat.shiftRight_eq_div_pow]
    exact Nat.div_eq_of_lt_le (by omega) (by rw [Nat.pow_succ] at hd; omega)
  obtain ⟨low, rfl⟩ := Nat.exists_eq_add_of_le hge
  simp only [irreducible, Bool.and_eq_true, List.all_eq_true, List.mem_range, decide_eq_true_eq] at h
  refine h.2 k (by omega) low (by rw [Nat.pow_succ _ (k + 1)] at hd; omega) ?_
  rw [polyRem_eq_reduceFrom]
  have hlt : reduceFrom (k + 1) (2 ^ (k + 1) + low) p (w - k) < 2 ^ (k + 1) :=
    reduceFrom_lt hd1 (by rw [show k + 1 + (w - k) = w + 1 by omega]; exact lt_of_degree hdeg)
  have hrem := (dvd_iff_dvd_of_dvd_sub (dvd_bitsPoly_reduceFrom (k + 1) (2 ^ (k + 1) + low) p (w - k))).2 hdvd
  refine bitsPoly_injective (Eq.trans (eq_zero_of_dvd_of_degree_lt hrem ?_) bitsPoly_zero.symm)
  rw [degree_eq_natDegree hq.ne_zero, hk]
  exact degree_bitsPoly_lt hlt

end Sys2Proof.Machine

/-! PROOFS. The field laws of R115, through a field the numbers below 2^w map into. -/

namespace Sys2Proof.Machine

/-- The numbers below 2^w stand for distinct elements of a ring `K`, gf_add and gf_mul for its sum and product, and `K`
has the power law of a field of 2^w elements (40_gf_arith.md R111, R112, R115). -/
structure FieldModel (c : Config) (f : Field) {K : Type} [CommRing K] (φ : Nat → K) : Prop where
  zero : φ 0 = 0
  one : φ 1 = 1
  add : ∀ a b, φ (gfAdd a b) = φ a + φ b
  mul : ∀ a, ∀ b < 2 ^ f.width, φ (gfMul c f a b) = φ a * φ b
  inj : ∀ a < 2 ^ f.width, ∀ b < 2 ^ f.width, φ a = φ b → a = b
  power : ∀ x : K, x ≠ 0 → x ^ (2 ^ f.width - 1) = 1

/-- The polynomials over GF(2) modulo the irreducible one are such a ring. -/
theorem exists_fieldModel {c : Config} (hc : c.wellFormed = true) (f : Field) :
    ∃ (K : Type) (_ : CommRing K) (_ : IsDomain K) (φ : Nat → K), FieldModel c f φ := by
  have hirr := irreducible_poly hc f
  obtain ⟨hmonic, hdeg⟩ := monic_bitsPoly (degree_of_irreducible hirr)
  have : Fact (Irreducible (bitsPoly (c.poly f))) := ⟨irreducible_bitsPoly (width_pos f) hirr⟩
  have basis := (AdjoinRoot.powerBasis' hmonic).basis
  have hcard : Nat.card (AdjoinRoot (bitsPoly (c.poly f))) = 2 ^ f.width := by
    rw [Nat.card_congr basis.equivFun.toEquiv, AdjoinRoot.powerBasis'_dim, hdeg]; simp
  have : Finite (AdjoinRoot (bitsPoly (c.poly f))) := Nat.finite_of_card_ne_zero (by rw [hcard]; positivity)
  have := Fintype.ofFinite (AdjoinRoot (bitsPoly (c.poly f)))
  refine ⟨_, inferInstance, inferInstance, fun n => AdjoinRoot.mk (bitsPoly (c.poly f)) (bitsPoly n), ?_⟩
  exact {
    zero := by simp
    one := by simp
    add := fun a b => by simp [gfAdd]
    mul := fun a b hb => by
      rw [← map_mul, ← bitsPoly_clmul a hb, AdjoinRoot.mk_eq_mk]
      exact dvd_bitsPoly_reduceFrom _ _ _ _
    inj := fun a ha b hb hab => by
      rw [AdjoinRoot.mk_eq_mk] at hab
      refine bitsPoly_injective (sub_eq_zero.1 (Polynomial.eq_zero_of_dvd_of_degree_lt hab ?_))
      rw [Polynomial.degree_eq_natDegree hmonic.ne_zero, hdeg]
      exact (Polynomial.degree_sub_le _ _).trans_lt (max_lt (degree_bitsPoly_lt ha) (degree_bitsPoly_lt hb))
    power := fun x hx => by
      rw [← hcard, Nat.card_eq_fintype_card]
      exact FiniteField.pow_card_sub_one_eq_one x hx }

section
variable {c : Config} {f : Field} (hc : c.wellFormed = true)
include hc

theorem gfSquares_lt {k t acc : Nat} (hacc : acc < 2 ^ f.width) : gfSquares c f k t acc < 2 ^ f.width := by
  induction k generalizing t acc with
  | zero => exact hacc
  | succ k ih => exact ih (gfMul_lt hc hacc _)

theorem gfInv_lt (a : Nat) : gfInv c f a < 2 ^ f.width := gfSquares_lt hc (Nat.one_lt_two_pow (width_pos f).ne')

theorem gfDiv_lt {a : Nat} (ha : a < 2 ^ f.width) (b : Nat) : gfDiv c f a b < 2 ^ f.width := gfMul_lt hc ha _

theorem gfPow_lt {a : Nat} (n : Nat) : gfPow c f a n < 2 ^ f.width := by
  induction n with
  | zero => exact Nat.one_lt_two_pow (width_pos f).ne'
  | succ n ih => exact gfMul_lt hc ih a

end

theorem gfAdd_lt {f : Field} {a b : Nat} (ha : a < 2 ^ f.width) (hb : b < 2 ^ f.width) : gfAdd a b < 2 ^ f.width :=
  Nat.xor_lt_two_pow ha hb

namespace FieldModel

variable {c : Config} {f : Field} {K : Type} [CommRing K] {φ : Nat → K} (h : FieldModel c f φ)
include h

theorem eq_zero_iff {a : Nat} (ha : a < 2 ^ f.width) : φ a = 0 ↔ a = 0 :=
  ⟨fun h0 => h.inj a ha 0 (Nat.two_pow_pos _) (h0.trans h.zero.symm), fun h0 => h0 ▸ h.zero⟩

theorem sum (g : Nat → Nat) (n : Nat) : φ (gfSum g n) = ∑ i ∈ Finset.range n, φ (g i) := by
  induction n with
  | zero => exact h.zero
  | succ n ih => rw [gfSum, h.add, ih, Finset.sum_range_succ]

theorem pow {a : Nat} (ha : a < 2 ^ f.width) (n : Nat) : φ (gfPow c f a n) = φ a ^ n := by
  induction n with
  | zero => exact h.one.trans (pow_zero _).symm
  | succ n ih => rw [gfPow, h.mul _ _ ha, ih, pow_succ]

variable (hc : c.wellFormed = true)
include hc

theorem squares {k t acc : Nat} (ht : t < 2 ^ f.width) :
    φ (gfSquares c f k t acc) = φ acc * φ t ^ (2 ^ (k + 1) - 2) := by
  induction k generalizing t acc with
  | zero => simp [gfSquares]
  | succ k ih =>
    have ht2 := gfMul_lt hc ht t
    have hexp : 2 ^ (k + 1 + 1) - 2 = 2 + 2 * (2 ^ (k + 1) - 2) := by
      have := Nat.two_pow_pos k
      rw [Nat.pow_succ _ (k + 1), Nat.pow_succ _ k]
      omega
    rw [gfSquares, ih ht2, h.mul _ _ ht2, h.mul _ _ ht, hexp, pow_add (φ t), pow_mul (φ t), sq, mul_assoc]

theorem inv {a : Nat} (ha : a < 2 ^ f.width) : φ (gfInv c f a) = φ a ^ (2 ^ f.width - 2) := by
  rw [gfInv, h.squares hc ha, h.one, one_mul, Nat.sub_add_cancel (width_pos f)]

theorem mul_inv {a : Nat} (ha : a < 2 ^ f.width) (hne : a ≠ 0) : φ a * φ (gfInv c f a) = 1 := by
  have hwidth : 2 ≤ 2 ^ f.width := Nat.le_self_pow (width_pos f).ne' 2
  rw [h.inv hc ha, ← pow_succ', show 2 ^ f.width - 2 + 1 = 2 ^ f.width - 1 by omega]
  exact h.power _ fun h0 => hne ((h.eq_zero_iff ha).1 h0)

theorem div {a b : Nat} : φ (gfDiv c f a b) = φ a * φ (gfInv c f b) := h.mul a _ (gfInv_lt hc b)

end FieldModel

/-- Settles O15: each law holds of the images in a field, and the elements below 2^w are distinct there. -/
theorem fieldLawsHold : Obligations.FieldLawsHold := by
  intro c f a b d hc ha hb hd
  obtain ⟨K, _, _, φ, h⟩ := exists_fieldModel hc f
  have h1 : 1 < 2 ^ f.width := Nat.one_lt_two_pow (width_pos f).ne'
  have hmul := fun {x} (hx : x < 2 ^ f.width) y => gfMul_lt (f := f) hc hx y
  have hinv := gfInv_lt (f := f) hc
  have hmulInv : ∀ x < 2 ^ f.width, x ≠ 0 → gfMul c f x (gfInv c f x) = 1 := fun x hx hne =>
    h.inj _ (hmul hx _) _ h1 (by rw [h.mul _ _ (hinv x), h.mul_inv hc hx hne, h.one])
  have hcancel : ∀ x < 2 ^ f.width, ∀ y < 2 ^ f.width, gfMul c f x y = 1 → y ≠ 0 := by
    rintro x hx y hy hxy rfl
    have h01 := h.mul x 0 hy
    rw [hxy, h.zero, mul_zero, h.one] at h01
    exact one_ne_zero h01
  refine ⟨gfAdd_lt ha hb, hmul ha b, Nat.xor_comm a b, ?comm, Nat.xor_assoc a b d, ?assoc, ?distrib, Nat.xor_zero a,
    Nat.xor_self a, ?mulZero, ?mulOne, ?zero, fun hne => ?div, fun hne => ⟨hinv a, hmulInv a ha hne, ?invInv, ?power⟩,
    ?invOne⟩
  case comm => exact h.inj _ (hmul ha b) _ (hmul hb a) (by rw [h.mul _ _ hb, h.mul _ _ ha, mul_comm])
  case assoc =>
    refine h.inj _ (hmul (hmul ha b) d) _ (hmul ha _) ?_
    rw [h.mul _ _ hd, h.mul _ _ hb, h.mul _ _ (hmul hb d), h.mul _ _ hd, mul_assoc]
  case distrib =>
    refine h.inj _ (hmul ha _) _ (gfAdd_lt (hmul ha b) (hmul ha d)) ?_
    rw [h.mul _ _ (gfAdd_lt hb hd), h.add, h.add, h.mul _ _ hb, h.mul _ _ hd, mul_add]
  case mulZero =>
    have h0 : 0 < 2 ^ f.width := Nat.two_pow_pos _
    exact h.inj _ (hmul ha 0) _ h0 (by rw [h.mul _ _ h0, h.zero, mul_zero])
  case mulOne => exact h.inj _ (hmul ha 1) _ ha (by rw [h.mul _ _ h1, h.one, mul_one])
  case zero => rw [← h.eq_zero_iff (hmul ha b), h.mul _ _ hb, mul_eq_zero, h.eq_zero_iff ha, h.eq_zero_iff hb]
  case div =>
    refine h.inj _ (gfDiv_lt hc (hmul ha b) b) _ ha ?_
    rw [h.div hc, h.mul _ _ hb, mul_assoc, h.mul_inv hc hb hne, mul_one]
  case invInv =>
    have hne' := hcancel a ha _ (hinv a) (hmulInv a ha hne)
    refine h.inj _ (hinv _) _ ha ?_
    calc φ (gfInv c f (gfInv c f a))
        = φ a * φ (gfInv c f a) * φ (gfInv c f (gfInv c f a)) := by rw [h.mul_inv hc ha hne, one_mul]
      _ = φ a := by rw [mul_assoc, h.mul_inv hc (hinv a) hne', mul_one]
  case power => exact h.inj _ (hinv a) _ (gfPow_lt hc _) (by rw [h.inv hc ha, h.pow ha])
  case invOne => exact h.inj _ (hinv 1) _ h1 (by rw [h.inv hc h1, h.one, one_pow])

end Sys2Proof.Machine

/-! PROOFS. A buffer written element by element (20_memory.md R62), and the commands that write one buffer: the row
combiner and the generator's fills (41_row_combiner.md R141, R142, 42_coeff_generator.md R162-R168). -/

namespace Sys2Proof.Machine

/-! ### A buffer written element by element -/

/-- An invariant of a loop that succeeds, by the index reached. -/
theorem loop_invariant {σ : Type} {body : Nat → σ → Except ErrorCode σ} (P : Nat → σ → Prop) {n : Nat}
    (hbody : ∀ i x y, i < n → P i x → body i x = .ok y → P (i + 1) y) {x y : σ} (hx : P 0 x)
    (h : loop body n x = .ok y) : P n y := by
  induction n generalizing y with
  | zero => exact Except.ok.inj h ▸ hx
  | succ n ih =>
    obtain ⟨z, hz, h⟩ := exists_of_bind_eq_ok (x := loop body n x) h
    exact hbody n z y n.lt_succ_self (ih (fun i x y hi => hbody i x y (Nat.lt_succ_of_lt hi)) hz) h

theorem elemAt_congr {f : Field} {m m' : Memory} {a : Nat}
    (h : ∀ b, a ≤ b → b < a + f.bytes → Memory.read m' b = Memory.read m b) : elemAt f m' a = elemAt f m a := by
  cases f with
  | gf8 => simp only [elemAt, h a le_rfl (by simp only [Field.bytes]; omega)]
  | gf16 =>
    simp only [elemAt, h a le_rfl (by simp only [Field.bytes]; omega),
      h (a + 1) (by omega) (by simp only [Field.bytes]; omega)]

/-- `m'` is `m` with `val 0, …, val (n-1)` as the elements at `base`, in canonical form. -/
structure RowWritten (f : Field) (base n : Nat) (val : Nat → Nat) (m m' : Memory) : Prop where
  wf : Memory.wf m'
  elem : ∀ i < n, elemAt f m' (base + i * f.bytes) = val i
  frame : ∀ b, b < base ∨ base + n * f.bytes ≤ b → Memory.read m' b = Memory.read m b

namespace RowWritten

variable {c : Config} {f : Field} {base n : Nat} {val : Nat → Nat} {m m' m'' : Memory}

theorem zero (hm : Memory.wf m) : RowWritten f base 0 val m m :=
  ⟨hm, fun _ hi => absurd hi (Nat.not_lt_zero _), fun _ _ => rfl⟩

/-- An element outside the part written is the old one. -/
theorem elemAt_eq (h : RowWritten f base n val m m') {a : Nat} (ha : a + f.bytes ≤ base ∨ base + n * f.bytes ≤ a) :
    elemAt f m' a = elemAt f m a :=
  elemAt_congr fun b hlow hhigh => h.frame b (by omega)

/-- The next element written. -/
theorem succ (h : RowWritten f base n val m m') (hval : val n < 2 ^ f.width)
    (hwrite : elemWrite c f m' (base + n * f.bytes) (val n) = .ok m'') : RowWritten f base (n + 1) val m m'' := by
  obtain ⟨hwf, helem, hframe⟩ := elemWrite_spec h.wf hwrite
  refine ⟨hwf, fun i hi => ?_, fun b hb => ?_⟩
  · obtain rfl | hlt := Nat.eq_or_lt_of_le (Nat.lt_succ_iff.1 hi)
    · exact helem.trans (Nat.mod_eq_of_lt hval)
    · have hend := elem_end_le hlt f
      exact (elemAt_congr fun b hlow hhigh => hframe b (by omega)).trans (h.elem i hlt)
  · rw [Nat.succ_mul] at hb
    exact (hframe b (by omega)).trans (h.frame b (by omega))

/-- The frame in terms of the buffer. -/
theorem read_eq (h : RowWritten f base n val m m') {b : Nat} (hb : regionHas (elemRegion f base n) b = false) :
    Memory.read m' b = Memory.read m b := by
  refine h.frame b ?_
  have hnot := mt (regionHas_iff (elemRegion f base n) b).2 (Bool.eq_false_iff.1 hb)
  simp only [elemRegion] at hnot
  omega

end RowWritten

/-- A loop that writes one element in each step. -/
theorem rowWritten_of_loop {c : Config} {f : Field} {base n : Nat} {val : Nat → Nat} {m m' : Memory}
    {body : Nat → Memory → Except ErrorCode Memory} (hm : Memory.wf m)
    (hbody : ∀ i x y, i < n → RowWritten f base i val m x → body i x = .ok y →
      val i < 2 ^ f.width ∧ elemWrite c f x (base + i * f.bytes) (val i) = .ok y)
    (h : loop body n m = .ok m') : RowWritten f base n val m m' :=
  loop_invariant (RowWritten f base · val m)
    (fun i x y hi hx hy => have hstep := hbody i x y hi hx hy; hx.succ hstep.1 hstep.2) (RowWritten.zero hm) h

/-! ### Commands in flight -/

/-- An undisturbed command in flight whose checks hold and whose body succeeds completes. -/
theorem exec_of_body_ok {i : Instr} {s u : State} {l : Latched} (hl : s.eng = .busy l)
    (hcheck : firstError (checks i l s) = none) (hquiet : disturbed i l s = false)
    (hbody : commandBody i s l = .ok u) : exec i s = .next (finished u) := by
  rw [exec_eq_commandBody, runCommand_of_body_ok hl hcheck hbody, disturb_of_undisturbed hquiet]

/-! ### The row combiner -/

/-- ROW_AXPY on two buffers that are one or do not meet (R141). -/
theorem rowWritten_of_axpy {c : Config} {f : Field} {dst src sc n : Nat} {m m' : Memory} (hc : c.wellFormed = true)
    (hm : Memory.wf m) (hsc : sc < 2 ^ f.width)
    (happart : dst = src ∨ dst + n * f.bytes ≤ src ∨ src + n * f.bytes ≤ dst) (h : axpy c f dst src sc n m = .ok m') :
    RowWritten f dst n
      (fun i => gfAdd (elemAt f m (dst + i * f.bytes)) (gfMul c f sc (elemAt f m (src + i * f.bytes)))) m m' := by
  refine rowWritten_of_loop (c := c) hm (fun i x y hi hx hy => ?_) h
  have hend := elem_end_le hi f
  obtain ⟨a, ha, hy⟩ := exists_of_bind_eq_ok hy
  obtain ⟨b, hb, hy⟩ := exists_of_bind_eq_ok hy
  rw [eq_of_elemRead_eq_ok ha, eq_of_elemRead_eq_ok hb, hx.elemAt_eq (by omega), hx.elemAt_eq (by omega)] at hy
  exact ⟨gfAdd_lt (elemAt_lt f _ _) (gfMul_lt hc hsc _), hy⟩

theorem rowWritten_of_scale {c : Config} {f : Field} {dst sc n : Nat} {m m' : Memory} (hc : c.wellFormed = true)
    (hm : Memory.wf m) (hsc : sc < 2 ^ f.width) (h : scale c f dst sc n m = .ok m') :
    RowWritten f dst n (fun i => gfMul c f sc (elemAt f m (dst + i * f.bytes))) m m' := by
  refine rowWritten_of_loop (c := c) hm (fun i x y hi hx hy => ?_) h
  obtain ⟨a, ha, hy⟩ := exists_of_bind_eq_ok hy
  rw [eq_of_elemRead_eq_ok ha, hx.elemAt_eq (by omega)] at hy
  exact ⟨gfMul_lt hc hsc _, hy⟩

theorem div_mul_bytes_of_mod_eq_zero {f : Field} {len : Nat} (h : len % f.bytes = 0) : len / f.bytes * f.bytes = len :=
  Nat.div_mul_cancel (Nat.dvd_of_mod_eq_zero h)

/-- Settles O16: lane i reads src and dst before either changes. -/
theorem rowAxpyCombinesEveryLane : Obligations.RowAxpyCombinesEveryLane := by
  intro f s l hc hm hl hquiet hsc hdst hsrc hdstAlign hsrcAlign hlen hover hmap
  have hcheck : firstError (checks (.rowAxpy f) l s) = none := by
    have hdstIn : inRange (rowDst l) = true := decide_eq_true hdst
    have hsrcIn : inRange (rowSrc l) = true := decide_eq_true hsrc
    simp [checks, rowAxpyChecks, firstError, elementOk, addressAligned, *]
  have hbytes := div_mul_bytes_of_mod_eq_zero hlen
  simp only [allMapped_cons, allMapped_nil, and_true] at hmap
  obtain ⟨m, hbody⟩ := (okElseBus_axpy s.config f l.ops.a0.toNat l.ops.a1.toNat l.ops.a3.toNat
    (l.ops.a2.toNat / f.bytes) s.memory).1 (by rwa [elemRegion_div_bytes hlen, elemRegion_div_bytes hlen])
  have happart := mt (rowOverlap_iff l).2 (Bool.eq_false_iff.1 hover)
  have hrow := rowWritten_of_axpy hc hm hsc (by omega) hbody
  refine ⟨m, exec_of_body_ok hl hcheck hquiet (by simp only [commandBody, hbody]; rfl), hrow.elem, fun a ha => ?_⟩
  exact hrow.read_eq (by rwa [elemRegion_div_bytes hlen])

/-- Settles O17: each lane reads its element before it writes it. -/
theorem rowScaleMultipliesEveryLane : Obligations.RowScaleMultipliesEveryLane := by
  intro f s l hc hm hl hquiet hsc hdst halign hlen hmap
  have hcheck : firstError (checks (.rowScale f) l s) = none := by
    have hdstIn : inRange (rowDst l) = true := decide_eq_true hdst
    simp [checks, rowScaleChecks, firstError, elementOk, addressAligned, *]
  simp only [allMapped_cons, allMapped_nil, and_true] at hmap
  obtain ⟨m, hbody⟩ := (okElseBus_scale s.config f l.ops.a0.toNat l.ops.a3.toNat
    (l.ops.a2.toNat / f.bytes) s.memory).1 (by rwa [elemRegion_div_bytes hlen])
  have hrow := rowWritten_of_scale hc hm hsc hbody
  refine ⟨m, exec_of_body_ok hl hcheck hquiet (by simp only [commandBody, hbody]; rfl), hrow.elem, fun a ha => ?_⟩
  exact hrow.read_eq (by rwa [elemRegion_div_bytes hlen])

/-! ### The generator -/

/-- Natural-number arithmetic of the three shifts (R162). -/
theorem toNat_xorshift (g : BitVec 64) : (xorshift g).toNat = nextState g.toNat := by
  simp only [xorshift, nextState, BitVec.toNat_xor, BitVec.toNat_shiftLeft, BitVec.toNat_ushiftRight,
    Nat.shiftLeft_eq, Nat.shiftRight_eq_div_pow]

theorem drawn_xorshift (g : BitVec 64) : drawn (xorshift g) = drawOf g.toNat := by
  rw [drawn, drawOf, ← toNat_xorshift, BitVec.toNat_ushiftRight, Nat.shiftRight_eq_div_pow]

theorem drawCoef_lt (gen : Generator) (w : Nat) (g : BitVec 64) : (drawCoef gen w g).1 < 2 ^ w := by
  have hmod := fun x : Nat => Nat.mod_lt x (Nat.two_pow_pos w)
  unfold drawCoef
  dsimp only
  split
  · exact hmod _
  · split
    · exact hmod _
    · exact Nat.two_pow_pos w

/-- A loop that draws a coefficient and writes one element in each step; `val` may use the draw. -/
theorem rowWritten_of_draws {c : Config} {f : Field} {gen : Generator} {base n : Nat} {val : Nat → Nat}
    {g : BitVec 64} {m : Memory} {x' : BitVec 64 × Memory}
    {body : Nat → BitVec 64 × Memory → Except ErrorCode (BitVec 64 × Memory)} (hm : Memory.wf m)
    (hval : ∀ i < n, val i < 2 ^ f.width)
    (hbody : ∀ i y z, i < n → RowWritten f base i val m y → body i (stateAfter gen f.width g i, y) = .ok z →
      ∃ y', elemWrite c f y (base + i * f.bytes) (val i) = .ok y' ∧ z = (stateAfter gen f.width g (i + 1), y'))
    (h : loop body n (g, m) = .ok x') :
    x'.1 = stateAfter gen f.width g n ∧ RowWritten f base n val m x'.2 := by
  refine loop_invariant (fun i x => x.1 = stateAfter gen f.width g i ∧ RowWritten f base i val m x.2)
    (fun i x z hi hx hz => ?_) ⟨rfl, RowWritten.zero hm⟩ h
  obtain ⟨g', y⟩ := x
  obtain ⟨rfl, hrow⟩ := hx
  obtain ⟨y', hwrite, rfl⟩ := hbody i y z hi hrow hz
  exact ⟨rfl, hrow.succ (hval i hi) hwrite⟩

theorem rowWritten_of_fill {c : Config} {f : Field} {gen : Generator} {out n : Nat} {g : BitVec 64} {m : Memory}
    {x' : BitVec 64 × Memory} (hm : Memory.wf m) (h : loop (fillElem c f gen out) n (g, m) = .ok x') :
    x'.1 = stateAfter gen f.width g n ∧ RowWritten f out n (coefOf gen f.width g) m x'.2 := by
  refine rowWritten_of_draws (c := c) hm (fun i _ => drawCoef_lt gen f.width _) (fun i y z hi _ hz => ?_) h
  obtain ⟨y', hwrite, hz⟩ := exists_of_bind_eq_ok hz
  exact ⟨y', hwrite, (Except.ok.inj hz).symm⟩

/-- The mask is read as the fill found it: it does not meet the buffer (R168). -/
theorem rowWritten_of_fillMasked {c : Config} {f : Field} {gen : Generator} {out mk n : Nat} {g : BitVec 64}
    {m : Memory} {x' : BitVec 64 × Memory} (hm : Memory.wf m)
    (happart : ∀ i < n, mk + i / 8 < out ∨ out + n * f.bytes ≤ mk + i / 8)
    (h : loop (fillMaskedElem c f gen out mk) n (g, m) = .ok x') :
    x'.1 = stateAfter gen f.width g n ∧
      RowWritten f out n (fun i => if maskBit m mk i then coefOf gen f.width g i else 0) m x'.2 := by
  refine rowWritten_of_draws (c := c) hm (fun i _ => ?_) (fun i y z hi hrow hz => ?_) h
  · split
    · exact drawCoef_lt gen f.width _
    · exact Nat.two_pow_pos _
  · obtain ⟨b, hread, hz⟩ := exists_of_bind_eq_ok hz
    obtain ⟨y', hwrite, hz⟩ := exists_of_bind_eq_ok hz
    have hmask : b = (Memory.read m (mk + i / 8)).toNat := by
      have hend := elem_end_le hi f
      have hold : Memory.read y (mk + i / 8) = Memory.read m (mk + i / 8) :=
        hrow.frame _ (by have := happart i hi; omega)
      rw [← hold]
      exact eq_of_elemRead_eq_ok (f := .gf8) hread
    rw [hmask] at hwrite
    exact ⟨y', hwrite, (Except.ok.inj hz).symm⟩

/-- Settles O22: the three branches of a draw, then the fill by the loop rule. -/
theorem genFillWritesTheDrawnVector : Obligations.GenFillWritesTheDrawnVector := by
  refine ⟨fun gen w g => ?_, fun f s l hm hl hquiet hrange halign hmap => ?_⟩
  · dsimp only [drawCoef]
    rw [← toNat_xorshift, ← drawn_xorshift, ← drawn_xorshift, ← toNat_xorshift]
    refine ⟨fun h => ?_, fun h hkept => ?_, fun h hzero => ?_⟩
    · rw [if_pos h]
      exact ⟨rfl, rfl⟩
    · rw [if_neg (Bool.eq_false_iff.1 h), if_pos hkept]
      exact ⟨rfl, rfl⟩
    · rw [if_neg (Bool.eq_false_iff.1 h), if_neg (not_lt.2 hzero)]
      exact ⟨rfl, rfl⟩
  · have hcheck : firstError (checks (.genFill f) l s) = none := by
      have hin : inRange (fillOut f l) = true := decide_eq_true hrange
      simp [checks, genFillChecks, firstError, addressAligned, hin, halign]
    simp only [allMapped_cons, allMapped_nil, and_true] at hmap
    obtain ⟨x, hbody⟩ := (okElseBus_fill s.config f s.gen l.ops.a0.toNat l.ops.a1.toNat (s.gen.gstate, s.memory)).1 hmap
    obtain ⟨hstate, hrow⟩ := rowWritten_of_fill hm hbody
    refine ⟨x.2, ?_, hrow.elem, fun a ha => hrow.read_eq ha⟩
    rw [← hstate]
    exact exec_of_body_ok hl hcheck hquiet (by simp only [commandBody, hbody]; rfl)

/-- Settles O23: the loop rule, the mask bytes outside the buffer. -/
theorem genFillPartialMasksTheDrawnVector : Obligations.GenFillPartialMasksTheDrawnVector := by
  intro f s l hm hl hquiet hrange hmaskRange halign hmeet hmap
  have hcheck : firstError (checks (.genFillPartial f) l s) = none := by
    have hin : inRange (fillOut f l) = true := decide_eq_true hrange
    have hmaskIn : inRange (fillMask l) = true := decide_eq_true hmaskRange
    simp [checks, genFillPartialChecks, firstError, addressAligned, hin, hmaskIn, halign, hmeet]
  simp only [allMapped_cons, allMapped_nil, and_true] at hmap
  obtain ⟨x, hbody⟩ := (okElseBus_fillMasked s.config f s.gen l.ops.a0.toNat l.ops.a2.toNat l.ops.a1.toNat
    (s.gen.gstate, s.memory)).1 hmap
  have happart : ∀ i < l.ops.a1.toNat,
      l.ops.a2.toNat + i / 8 < l.ops.a0.toNat ∨ l.ops.a0.toNat + l.ops.a1.toNat * f.bytes ≤ l.ops.a2.toNat + i / 8 := by
    intro i hi
    simp only [regionsMeet, decide_eq_false_iff_not] at hmeet
    simp only [fillOut, fillMask, elemRegion] at hmeet
    omega
  obtain ⟨hstate, hrow⟩ := rowWritten_of_fillMasked hm happart hbody
  refine ⟨x.2, ?_, hrow.elem, fun a ha => hrow.read_eq ha⟩
  rw [← hstate]
  exact exec_of_body_ok hl hcheck hquiet (by simp only [commandBody, hbody]; rfl)

end Sys2Proof.Machine

/-! PROOFS. SCAN and FORWARD on a mapped coefficient matrix, and the commands that end with them (43_pivot_engine.md R192,
R195, R199-R201). -/

namespace Sys2Proof.Machine

/-! ### Reads of a mapped matrix -/

section
variable {c : Config} {d : Decoder} (hmap : regionMapped c (coefRegion d))
include hmap

theorem coefMapped {r j : Nat} (hr : r < d.dn.toNat) (hj : j < d.dn.toNat) : elemMapped c d.dfield (coefAddr d r j) :=
  elemMapped_of_regionMapped hmap (coefAddr_inside hr hj).1 (coefAddr_inside hr hj).2

theorem readRow_eq {r : Nat} (hr : r < d.dn.toNat) (m : Memory) :
    readRow c d m r = .ok ((List.range d.dn.toNat).map (coefAt d m r)) := by
  obtain ⟨row, hrow⟩ := (okElseBus_readRow c d m r).1 ((regionMapped_coefRow_iff c d r).2 fun j hj => coefMapped hmap hr hj)
  rw [hrow, eq_of_readRow_eq_ok hrow]

theorem scan_eq (m : Memory) : scan c m d = .ok (scanned m d) := by
  obtain ⟨d', hd'⟩ := (okElseBus_scan c m d).1 fun r hr _ =>
    (regionMapped_coefRow_iff c d r).2 fun j hj => coefMapped hmap hr hj
  rw [hd', eq_of_scan_eq_ok hd']

end

theorem readElems_eq {c : Config} {f : Field} {base n : Nat} (hmap : regionMapped c (elemRegion f base n)) (m : Memory) :
    readElems c f m (fun j => base + j * f.bytes) n = .ok ((List.range n).map fun j => elemAt f m (base + j * f.bytes)) := by
  obtain ⟨v, hv⟩ := (okElseBus_readElems c f m _ n).1 ((regionMapped_elemRegion_iff c f base n).1 hmap)
  rw [hv, eq_of_readElems_eq_ok hv]

/-! ### SCAN -/

/-- The end of a consume with the rows that a latched SU makes it scan mapped (R199, R200). -/
theorem finishConsume_eq {s : State} {su : Bool} {d : Decoder} (hmap : su = true → regionMapped s.config (coefRegion d))
    (dep : Bool) (res : Nat) (m : Memory) :
    finishConsume s su dep res d m = .ok
      { s with dec := { updateCounts (scannedIf su m d) with dep := dep }, res := BitVec.ofNat 32 res, memory := m } := by
  cases su with
  | false => rfl
  | true =>
    rw [finishConsume, if_pos rfl, scan_eq (hmap rfl)]
    rfl

/-- Settles O30: SCAN reads every row it needs, and leaves `scanned`. -/
theorem decUpdateStatusReclassifiesUnitRows : Obligations.DecUpdateStatusReclassifiesUnitRows := by
  intro s l hl hinit hmap
  simp only [allMapped_cons, allMapped_nil, and_true] at hmap
  have hcheck : firstError (checks (.decUpdateStatus s.dec.dfield) l s) = none := by
    simp [checks, sessionChecks, firstError, hinit]
  have hbody : commandBody (.decUpdateStatus s.dec.dfield) s l =
      .ok { s with dec := updateCounts (scanned s.memory s.dec) } := by
    simp only [commandBody, scan_eq hmap]
    rfl
  refine ⟨updateCounts (scanned s.memory s.dec), ?_, rfl, List.length_mapIdx, fun r => statAt_scanned _ _ _⟩
  rw [exec_eq_commandBody, runCommand_of_body_ok hl hcheck hbody, disturb_of_writes_none rfl]

theorem firstError_of_checksPass {i : Instr} {l : Latched} {s : State} (h : checksPass i l s = true) :
    firstError (checks i l s) = none := Option.isNone_iff_eq_none.1 h

/-- Settles O35: the no-op case of DEC_CONSUME_SYS. -/
theorem duplicateSystematicSymbolIsANoOp : Obligations.DuplicateSystematicSymbolIsANoOp := by
  intro s l hl hpass hquiet hmap hpiv hdup
  simp only [allMapped_cons, allMapped_nil, and_true] at hmap
  refine exec_of_body_ok hl (firstError_of_checksPass hpass) hquiet ?_
  rw [commandBody, consumeUnit, if_pos hpiv, if_neg (Bool.eq_false_iff.1 hdup), finishConsume_eq hmap]
  rfl

/-! ### FORWARD -/

/-- The vector and the factors in the middle of FORWARD, before pivot `p` (R192). -/
def forwardState (c : Config) (d : Decoder) (m : Memory) (v : Nat → Nat) (p : Nat) : List Nat × List Nat :=
  ((List.range d.dn.toNat).map (reduction c d m v p),
    (List.range d.dn.toNat).map fun q => if q < p then pivotFactor c d m q (reduction c d m v q q) else 0)

theorem getD_map_range {n j : Nat} (hj : j < n) (g : Nat → Nat) : ((List.range n).map g).getD j 0 = g j := by
  simp [List.getD_eq_getElem?_getD, hj]

theorem map_getD_range {v : List Nat} {n : Nat} (h : v.length = n) : (List.range n).map (fun j => v.getD j 0) = v := by
  subst h
  exact List.ext_getElem (by simp) fun i h1 h2 => by simp [List.getD_eq_getElem?_getD, h2]

/-- A factor set in the list of factors. -/
theorem set_map_range (n p : Nat) (g : Nat → Nat) :
    ((List.range n).map fun q => if q < p then g q else 0).set p (g p) =
      (List.range n).map fun q => if q < p + 1 then g q else 0 := by
  refine List.ext_getElem (by simp) fun i h1 h2 => ?_
  rw [List.getElem_set]
  by_cases hi : p = i
  · simp [hi]
  · have hle : i ≤ p ↔ i < p := by omega
    simp [hi, hle]

theorem zipWith_map_range (n : Nat) (op : Nat → Nat → Nat) (g k : Nat → Nat) :
    List.zipWith op ((List.range n).map g) ((List.range n).map k) = (List.range n).map fun j => op (g j) (k j) := by
  rw [List.zipWith_map, List.zipWith_self]

theorem clmul_zero_left (b k : Nat) : clmul 0 b k = 0 := by
  induction k with
  | zero => rfl
  | succ k ih => rw [clmul, ih, Nat.zero_shiftLeft, Nat.xor_self, ite_self]

theorem clmul_zero_right (a k : Nat) : clmul a 0 k = 0 := by
  induction k with
  | zero => rfl
  | succ k ih => rw [clmul, ih, Nat.zero_testBit, if_neg Bool.false_ne_true]

theorem reduceFrom_zero (w p n : Nat) : reduceFrom w p 0 n = 0 := by
  induction n with
  | zero => rfl
  | succ n ih => rw [reduceFrom, Nat.zero_testBit, if_neg Bool.false_ne_true, ih]

@[simp] theorem gfMul_zero_left (c : Config) (f : Field) (b : Nat) : gfMul c f 0 b = 0 := by
  rw [gfMul, clmul_zero_left, reduceFrom_zero]

@[simp] theorem gfMul_zero_right (c : Config) (f : Field) (a : Nat) : gfMul c f a 0 = 0 := by
  rw [gfMul, clmul_zero_right, reduceFrom_zero]

@[simp] theorem gfAdd_zero (a : Nat) : gfAdd a 0 = a := Nat.xor_zero a

@[simp] theorem zero_gfAdd (a : Nat) : gfAdd 0 a = a := Nat.zero_xor a

section
variable {c : Config} {d : Decoder} {m : Memory} {v : Nat → Nat} {p : Nat}

/-- A pivot that reduces nothing: its row is not stored, or the running vector is 0 there. -/
theorem forwardStep_of_factor_zero (h : ¬(pivAt d p = true ∧ reduction c d m v p p ≠ 0)) (hp : p < d.dn.toNat) :
    forwardStep c d m p (forwardState c d m v p) = .ok (forwardState c d m v (p + 1)) := by
  have hfactor : pivotFactor c d m p (reduction c d m v p p) = 0 := if_neg h
  have hvector : reduction c d m v (p + 1) = reduction c d m v p :=
    funext fun j => by rw [reduction_succ, hfactor, gfMul_zero_left, gfAdd_zero]
  have hfactors : (fun q => if q < p + 1 then pivotFactor c d m q (reduction c d m v q q) else 0) =
      fun q => if q < p then pivotFactor c d m q (reduction c d m v q q) else 0 := by
    refine funext fun q => ?_
    obtain hq | rfl | hq := lt_trichotomy q p
    · rw [if_pos hq, if_pos (by omega)]
    · rw [if_pos q.lt_succ_self, if_neg (lt_irrefl q), hfactor]
    · rw [if_neg (by omega), if_neg (by omega)]
  rw [forwardStep, forwardState, getD_map_range hp, if_neg (by simpa using h), forwardState, hvector, hfactors]

/-- A pivot that reduces: a stored 0 stops FORWARD, any other gives its factor. -/
theorem forwardStep_of_reads (h : pivAt d p = true ∧ reduction c d m v p p ≠ 0) (hp : p < d.dn.toNat)
    (hread : elemRead c d.dfield m (coefAddr d p p) = .ok (coefAt d m p p)) :
    forwardStep c d m p (forwardState c d m v p) =
      if coefAt d m p p = 0 then .error .div0
      else readRow c d m p >>= fun row => .ok
        (List.zipWith (fun y z => gfAdd y (gfMul c d.dfield (pivotFactor c d m p (reduction c d m v p p)) z))
          (forwardState c d m v p).1 row,
        (forwardState c d m v p).2.set p (pivotFactor c d m p (reduction c d m v p p))) := by
  have hfactor : pivotFactor c d m p (reduction c d m v p p) = gfDiv c d.dfield (reduction c d m v p p) (coefAt d m p p) :=
    if_pos h
  rw [hfactor, forwardStep, forwardState, getD_map_range hp, if_pos (by simpa using h), hread]
  rfl

theorem forwardState_succ :
    (List.zipWith (fun y z => gfAdd y (gfMul c d.dfield (pivotFactor c d m p (reduction c d m v p p)) z))
        (forwardState c d m v p).1 ((List.range d.dn.toNat).map (coefAt d m p)),
      (forwardState c d m v p).2.set p (pivotFactor c d m p (reduction c d m v p p))) = forwardState c d m v (p + 1) := by
  rw [forwardState, zipWith_map_range, set_map_range _ _ fun q => pivotFactor c d m q (reduction c d m v q q)]
  rfl

/-- A step that succeeds meets no stored pivot 0. -/
theorem forwardStep_eq_ok {x : List Nat × List Nat} (hp : p < d.dn.toNat)
    (h : forwardStep c d m p (forwardState c d m v p) = .ok x) :
    ¬zeroPivotAt c d m v p ∧ x = forwardState c d m v (p + 1) := by
  by_cases hcond : pivAt d p = true ∧ reduction c d m v p p ≠ 0
  · have hread : elemRead c d.dfield m (coefAddr d p p) = .ok (coefAt d m p p) := by
      have hstep := h
      rw [forwardStep, forwardState, getD_map_range hp, if_pos (by simpa using hcond)] at hstep
      obtain ⟨piv, hpiv, -⟩ := exists_of_bind_eq_ok hstep
      rw [hpiv, eq_of_elemRead_eq_ok hpiv, coefAt]
    rw [forwardStep_of_reads hcond hp hread] at h
    split at h
    · cases h
    · next hne =>
      obtain ⟨row, hrow, h⟩ := exists_of_bind_eq_ok h
      rw [eq_of_readRow_eq_ok hrow, forwardState_succ] at h
      exact ⟨fun hz => hne hz.2.2, (Except.ok.inj h).symm⟩
  · rw [forwardStep_of_factor_zero hcond hp] at h
    exact ⟨fun hz => hcond ⟨hz.1, hz.2.1⟩, (Except.ok.inj h).symm⟩

variable (hmap : regionMapped c (coefRegion d)) (hp : p < d.dn.toNat)
include hmap hp

theorem forwardStep_eq (h : ¬zeroPivotAt c d m v p) :
    forwardStep c d m p (forwardState c d m v p) = .ok (forwardState c d m v (p + 1)) := by
  by_cases hcond : pivAt d p = true ∧ reduction c d m v p p ≠ 0
  · rw [forwardStep_of_reads hcond hp (elemRead_eq (coefMapped hmap hp hp) m),
      if_neg fun hz => h ⟨hcond.1, hcond.2, hz⟩, readRow_eq hmap hp, ← forwardState_succ]
    rfl
  · exact forwardStep_of_factor_zero hcond hp

theorem forwardStep_of_zeroPivot (h : zeroPivotAt c d m v p) :
    forwardStep c d m p (forwardState c d m v p) = .error .div0 := by
  obtain ⟨hpiv, hne, hzero⟩ := h
  rw [forwardStep_of_reads ⟨hpiv, hne⟩ hp (elemRead_eq (coefMapped hmap hp hp) m), if_pos hzero]

end

/-- FORWARD up to a pivot before which no stored pivot is 0. -/
theorem forward_loop_eq {c : Config} {d : Decoder} {m : Memory} {v : List Nat} {n : Nat}
    (hmap : regionMapped c (coefRegion d)) (hn : n ≤ d.dn.toNat)
    (h : ∀ p < n, ¬zeroPivotAt c d m (fun j => v.getD j 0) p) :
    loop (forwardStep c d m) n (forwardState c d m (fun j => v.getD j 0) 0) =
      .ok (forwardState c d m (fun j => v.getD j 0) n) := by
  obtain ⟨x, hx, rfl⟩ := loop_succeeds (body := forwardStep c d m) (n := n)
    (fun p x => x = forwardState c d m (fun j => v.getD j 0) p)
    (fun p x hp hx => ⟨_, hx ▸ forwardStep_eq hmap (hp.trans_le hn) (h p hp), rfl⟩) rfl
  exact hx

section
variable {c : Config} {d : Decoder} {m : Memory} {v : List Nat} (hv : v.length = d.dn.toNat)
include hv

theorem forward_eq_loop :
    forward c d m v = loop (forwardStep c d m) d.dn.toNat (forwardState c d m (fun j => v.getD j 0) 0) := by
  have hfactors : List.replicate d.dn.toNat 0 = (List.range d.dn.toNat).map fun _ => 0 := by simp
  simp only [forward, forwardState, reduction, map_getD_range hv, Nat.not_lt_zero, if_false, hfactors]

/-- A FORWARD that succeeds gives the reduction and its factors. -/
theorem eq_of_forward_eq_ok {x : List Nat × List Nat} (h : forward c d m v = .ok x) :
    x = forwardState c d m (fun j => v.getD j 0) d.dn.toNat := by
  rw [forward_eq_loop hv] at h
  refine loop_invariant (fun p x => x = forwardState c d m (fun j => v.getD j 0) p) (fun p x y hp hx hy => ?_) rfl h
  subst hx
  exact (forwardStep_eq_ok hp hy).2

variable (hmap : regionMapped c (coefRegion d))
include hmap

theorem forward_eq (h : ∀ p < d.dn.toNat, ¬zeroPivotAt c d m (fun j => v.getD j 0) p) :
    forward c d m v = .ok (forwardState c d m (fun j => v.getD j 0) d.dn.toNat) := by
  rw [forward_eq_loop hv]
  exact forward_loop_eq hmap le_rfl h

end

/-- An error ends a loop. -/
theorem loop_error_of_le {σ : Type} {body : Nat → σ → Except ErrorCode σ} {n k : Nat} {x : σ} {e : ErrorCode}
    (h : loop body n x = .error e) (hle : n ≤ k) : loop body k x = .error e := by
  induction k, hle using Nat.le_induction with
  | base => exact h
  | succ k _ ih => rw [loop, ih]; rfl

/-- The first stored pivot 0 that FORWARD would divide by stops it. -/
theorem forward_of_zeroPivot {c : Config} {d : Decoder} {m : Memory} {v : List Nat} {p : Nat} (hv : v.length = d.dn.toNat)
    (hmap : regionMapped c (coefRegion d)) (hp : p < d.dn.toNat) (hzero : zeroPivotAt c d m (fun j => v.getD j 0) p)
    (hbefore : ∀ q < p, ¬zeroPivotAt c d m (fun j => v.getD j 0) q) : forward c d m v = .error .div0 := by
  rw [forward_eq_loop hv]
  refine loop_error_of_le (n := p + 1) ?_ hp
  rw [loop, forward_loop_eq hmap hp.le hbefore]
  exact forwardStep_of_zeroPivot hmap hp hzero

/-! ### DEC_CONSUME -/

theorem vectorAt_length (d : Decoder) (m : Memory) (a : Nat) : (vectorAt d m a).length = d.dn.toNat := by
  simp [vectorAt]

/-- DEC_CONSUME reads its vector, then consumes it (R199). -/
theorem commandBody_decConsume {f : Field} {s : State} {l : Latched} (hmap : regionMapped s.config (consumeVector s.dec l)) :
    commandBody (.decConsume f) s l =
      consumeRow s l (vectorAt s.dec s.memory l.ops.a0.toNat) l.ops.a1.toNat := by
  rw [commandBody, readElems_eq hmap]
  rfl

/-- An undisturbed command in flight whose checks hold and whose body ends with an error other than a bus error changes
only the error state. -/
theorem exec_of_body_error {i : Instr} {s : State} {l : Latched} {e : ErrorCode} (hl : s.eng = .busy l)
    (hpass : checksPass i l s = true) (hquiet : disturbed i l s = false) (hbody : commandBody i s l = .error e)
    (he : e ≠ .bus) : exec i s = .next (failed e.code l s) := by
  rw [exec_eq_commandBody]
  simp only [runCommand, hl, firstError_of_checksPass hpass, hbody]
  cases e with
  | bus => exact absurd rfl he
  | _ => simp only [conclude, disturb_of_undisturbed hquiet]; rfl

/-- Settles O31: FORWARD stops at the stored pivot 0; CONSUME_ROW stops at the occupied column. -/
theorem corruptMatrixStopsAConsume : Obligations.CorruptMatrixStopsAConsume := by
  intro s l hl hpass hquiet hvec v
  simp only [allMapped_cons, allMapped_nil, and_true] at hvec ⊢
  have hfail := fun {e : ErrorCode} (h : consumeRow s l v l.ops.a1.toNat = .error e) (he : e ≠ .bus) =>
    exec_of_body_error hl hpass hquiet ((commandBody_decConsume hvec).trans h) he
  refine ⟨fun p hp hmap hzero hbefore => hfail (e := .div0) ?_ nofun,
    fun w fs col hforward hfirst hpiv => hfail (e := .matrix) ?_ nofun⟩
  · rw [consumeRow, forward_of_zeroPivot (vectorAt_length _ _ _) hmap hp hzero hbefore]
    rfl
  · rw [consumeRow, hforward]
    simp only [bind, Except.bind, findIdx?_of_firstNonzeroAt hfirst, if_pos hpiv]

end Sys2Proof.Machine

/-! PROOFS. FORWARD under INV, and a matrix of full rank (43_pivot_engine.md R190, R192, section 4). -/

namespace Sys2Proof.Machine

/-! ### Laws of the field, one by one -/

section
variable {c : Config} {f : Field} (hc : c.wellFormed = true) {a : Nat} (ha : a < 2 ^ f.width)
include hc

theorem gfInv_one : gfInv c f 1 = 1 := by
  have hzero : 0 < 2 ^ f.width := Nat.two_pow_pos _
  obtain ⟨-, -, -, -, -, -, -, -, -, -, -, -, -, -, hone⟩ := fieldLawsHold c f 0 0 0 hc hzero hzero hzero
  exact hone

include ha

theorem gfMul_one : gfMul c f a 1 = a := by
  obtain ⟨-, -, -, -, -, -, -, -, -, -, hone, -⟩ := fieldLawsHold c f a a a hc ha ha ha
  exact hone

theorem one_gfMul : gfMul c f 1 a = a := by
  obtain ⟨-, -, -, hcomm, -⟩ := fieldLawsHold c f 1 a a hc (Nat.one_lt_two_pow (width_pos f).ne') ha ha
  rw [hcomm, gfMul_one hc ha]

theorem gfDiv_one : gfDiv c f a 1 = a := by rw [gfDiv, gfInv_one hc, gfMul_one hc ha]

/-- The inverse from the left. -/
theorem gfInv_gfMul (hne : a ≠ 0) : gfMul c f (gfInv c f a) a = 1 := by
  have hinv := gfInv_lt hc (f := f) a
  obtain ⟨-, -, -, hcomm, -⟩ := fieldLawsHold c f (gfInv c f a) a a hc hinv ha ha
  obtain ⟨-, -, -, -, -, -, -, -, -, -, -, -, -, hlaw, -⟩ := fieldLawsHold c f a a a hc ha ha ha
  obtain ⟨-, hmul, -⟩ := hlaw hne
  rw [hcomm, hmul]

end

theorem gfSum_congr {g g' : Nat → Nat} {n : Nat} (h : ∀ i < n, g i = g' i) : gfSum g n = gfSum g' n := by
  induction n with
  | zero => rfl
  | succ n ih => rw [gfSum, gfSum, ih fun i hi => h i (Nat.lt_succ_of_lt hi), h n n.lt_succ_self]

theorem gfSum_eq_zero {g : Nat → Nat} {n : Nat} (h : ∀ i < n, g i = 0) : gfSum g n = 0 := by
  induction n with
  | zero => rfl
  | succ n ih => rw [gfSum, ih fun i hi => h i (Nat.lt_succ_of_lt hi), h n n.lt_succ_self, gfAdd_zero]

/-- A sum with one term that is not 0. -/
theorem gfSum_eq_single {g : Nat → Nat} {n p : Nat} (hp : p < n) (h : ∀ i < n, i ≠ p → g i = 0) : gfSum g n = g p := by
  induction n with
  | zero => exact absurd hp (Nat.not_lt_zero p)
  | succ n ih =>
    rw [gfSum]
    obtain rfl | hlt := Nat.eq_or_lt_of_le (Nat.lt_succ_iff.1 hp)
    · rw [gfSum_eq_zero fun i hi => h i (Nat.lt_succ_of_lt hi) hi.ne, zero_gfAdd]
    · rw [ih hlt fun i hi => h i (Nat.lt_succ_of_lt hi), h n n.lt_succ_self hlt.ne', gfAdd_zero]

/-! ### FORWARD under INV -/

/-- The reduction adds a multiple of each stored row (R192). -/
theorem reduction_eq_sum (c : Config) (d : Decoder) (m : Memory) (v : Nat → Nat) (p j : Nat) :
    reduction c d m v p j =
      gfAdd (v j) (gfSum (fun q => gfMul c d.dfield (pivotFactor c d m q (reduction c d m v q q)) (coefAt d m q j)) p) := by
  induction p with
  | zero => exact (gfAdd_zero _).symm
  | succ p ih => rw [reduction_succ, gfSum, ih, gfAdd, gfAdd, gfAdd, gfAdd, Nat.xor_assoc]

section
variable {c : Config} {d : Decoder} {m : Memory} {v : Nat → Nat} (hinv : MatrixInv d m)
include hinv

/-- The rows before a stored pivot leave the vector's entry there alone. -/
theorem reduction_of_stored {p : Nat} (hp : p < d.dn.toNat) (hpiv : pivAt d p = true) {q : Nat} (hq : q ≤ p) :
    reduction c d m v q p = v p := by
  induction q with
  | zero => rfl
  | succ q ih =>
    rw [reduction_succ, ih (by omega)]
    by_cases hstored : pivAt d q = true
    · obtain ⟨-, -, hclear⟩ := hinv.1 q (by omega) hstored
      rw [hclear p hp (by omega) hpiv, gfMul_zero_right, gfAdd_zero]
    · rw [pivotFactor_of_not_stored (Bool.eq_false_iff.2 hstored), gfMul_zero_left, gfAdd_zero]

theorem not_zeroPivotAt {p : Nat} (hp : p < d.dn.toNat) : ¬zeroPivotAt c d m v p := by
  rintro ⟨hpiv, -, hzero⟩
  obtain ⟨hone, -⟩ := hinv.1 p hp hpiv
  exact absurd (hone.symm.trans hzero) one_ne_zero

variable (hc : c.wellFormed = true) (hv : ∀ j, v j < 2 ^ d.dfield.width)
include hc hv

theorem pivotFactor_reduction {p : Nat} (hp : p < d.dn.toNat) :
    pivotFactor c d m p (reduction c d m v p p) = if pivAt d p = true then v p else 0 := by
  by_cases hpiv : pivAt d p = true
  · obtain ⟨hone, -⟩ := hinv.1 p hp hpiv
    rw [reduction_of_stored hinv hp hpiv le_rfl, pivotFactor, hone, gfDiv_one hc (hv p), if_pos hpiv]
    by_cases hzero : v p = 0 <;> simp [hpiv, hzero]
  · rw [pivotFactor_of_not_stored (Bool.eq_false_iff.2 hpiv), if_neg hpiv]

/-- The closed form: each stored row added as often as the vector's entry at its pivot. -/
theorem reduction_eq_closed (j : Nat) :
    reduction c d m v d.dn.toNat j =
      gfAdd (v j) (gfSum (fun p => if pivAt d p = true then gfMul c d.dfield (v p) (coefAt d m p j) else 0)
        d.dn.toNat) := by
  rw [reduction_eq_sum]
  congr 1
  refine gfSum_congr fun p hp => ?_
  rw [pivotFactor_reduction hinv hc hv hp]
  split
  · rfl
  · exact gfMul_zero_left _ _ _

/-- The reduced vector is 0 at every stored pivot. -/
theorem reduction_stored_eq_zero {p : Nat} (hp : p < d.dn.toNat) (hpiv : pivAt d p = true) :
    reduction c d m v d.dn.toNat p = 0 := by
  obtain ⟨hone, -⟩ := hinv.1 p hp hpiv
  have hsingle : ∀ q < d.dn.toNat, q ≠ p →
      (if pivAt d q = true then gfMul c d.dfield (v q) (coefAt d m q p) else 0) = 0 := by
    intro q hq hne
    split
    · next hstored =>
      obtain ⟨-, -, hclear⟩ := hinv.1 q hq hstored
      rw [hclear p hp hne.symm hpiv, gfMul_zero_right]
    · rfl
  rw [reduction_eq_closed hinv hc hv, gfSum_eq_single hp hsingle, if_pos hpiv, hone, gfMul_one hc (hv p), gfAdd,
    Nat.xor_self]

end

/-- The entries of a list below 2^w, and the 0 beyond its end. -/
theorem getD_lt {f : Field} {v : List Nat} (h : ∀ y ∈ v, y < 2 ^ f.width) (j : Nat) : v.getD j 0 < 2 ^ f.width := by
  rw [List.getD_eq_getElem?_getD]
  cases hj : v[j]? with
  | none => exact Nat.two_pow_pos _
  | some y => exact h y (List.mem_of_getElem? hj)

/-- Settles O32: the loop of FORWARD, its closed form, and the discarding end of CONSUME_ROW. -/
theorem dependentVectorIsDiscarded : Obligations.DependentVectorIsDiscarded := by
  refine ⟨fun c d m v hlen hmap => ⟨fun hpivots => ?_, fun hc hinv hv => ?_⟩,
    fun s l w fs hl hpass hquiet hmap hforward hzero => ?_⟩
  · simp only [allMapped_cons, allMapped_nil, and_true] at hmap
    rw [forward_eq hlen hmap hpivots, forwardState]
    refine congrArg (fun fs => Except.ok (_, fs)) (List.map_congr_left fun q hq => ?_)
    exact if_pos (List.mem_range.1 hq)
  · have hlt := getD_lt hv
    exact ⟨fun p hp => not_zeroPivotAt hinv hp, fun p hp => pivotFactor_reduction hinv hc hlt hp,
      fun j _ => reduction_eq_closed hinv hc hlt j, fun p hp hpiv => reduction_stored_eq_zero hinv hc hlt hp hpiv⟩
  · simp only [allMapped_cons, allMapped_nil, and_true] at hmap
    obtain ⟨hvec, hcoef⟩ := hmap
    refine exec_of_body_ok hl (firstError_of_checksPass hpass) hquiet ?_
    rw [commandBody_decConsume hvec, consumeRow, hforward]
    simp only [bind, Except.bind, (findIdx?_nonzero_eq_none_iff w).2 hzero]
    exact finishConsume_eq (fun _ => hcoef) _ _ _

/-! ### Full rank -/

/-- Settles O39: at full rank every row is stored, so INV leaves it its pivot only. -/
theorem fullRankHoldsTheOriginals : Obligations.FullRankHoldsTheOriginals := by
  intro c d m x hc _ hinv htrue hx hrank r hr
  have hstored : ∀ p < d.dn.toNat, pivAt d p = true := by
    have hcount := hinv.2
    rw [hrank] at hcount
    have hall := List.countP_eq_length.1 (hcount.symm.trans List.length_range.symm)
    exact fun p hp => hall p (List.mem_range.2 hp)
  obtain ⟨hone, -, hclear⟩ := hinv.1 r hr (hstored r hr)
  have hrow : ∀ j < d.dn.toNat, coefAt d m r j = if j = r then 1 else 0 := by
    intro j hj
    split
    · next h => rw [h, hone]
    · next h => exact hclear j hj h (hstored j hj)
  refine ⟨hrow, fun k hk => ?_⟩
  have hsingle : ∀ j < d.dn.toNat, j ≠ r → gfMul c d.dfield (coefAt d m r j) (x j k) = 0 := by
    intro j hj hne
    rw [hrow j hj, if_neg hne, gfMul_zero_left]
  rw [htrue r hr (hstored r hr) k hk, gfSum_eq_single hr hsingle, hone, one_gfMul hc (hx r k)]

end Sys2Proof.Machine

/-! PROOFS. The two matrices of a session as rows of elements in memory: where they lie, and what a row written into one
of them changes (43_pivot_engine.md R191). -/

namespace Sys2Proof.Machine

/-- The coefficient matrix or the symbol matrix of a session (R191). -/
inductive Matrix where
  | coef
  | sym
  deriving DecidableEq

/-- The address of an entry (R191). -/
def entryAddr (d : Decoder) : Matrix → Nat → Nat → Nat
  | .coef => coefAddr d
  | .sym => symAddr d

/-- The elements of a row (R191). -/
def rowLength (d : Decoder) : Matrix → Nat
  | .coef => d.dn.toNat
  | .sym => symElems d

/-- The bytes of a matrix (R191). -/
def matrixRegion (d : Decoder) : Matrix → Region
  | .coef => coefRegion d
  | .sym => symRegion d

/-- Entry (r, j) of a matrix: `coefAt` or `symAt`. -/
def entryAt (d : Decoder) (m : Memory) (κ : Matrix) (r j : Nat) : Nat := elemAt d.dfield m (entryAddr d κ r j)

theorem entryAt_coef (d : Decoder) (m : Memory) : entryAt d m .coef = coefAt d m := rfl

theorem entryAt_sym (d : Decoder) (m : Memory) : entryAt d m .sym = symAt d m := rfl

theorem coefAt_lt (d : Decoder) (m : Memory) (r j : Nat) : coefAt d m r j < 2 ^ d.dfield.width := elemAt_lt _ _ _

theorem entryAt_lt (d : Decoder) (m : Memory) (κ : Matrix) (r j : Nat) : entryAt d m κ r j < 2 ^ d.dfield.width :=
  elemAt_lt _ _ _

/-! ### Where rows lie -/

section
variable {d : Decoder}

theorem entryAddr_eq (d : Decoder) (κ : Matrix) (r j : Nat) :
    entryAddr d κ r j = entryAddr d κ r 0 + j * d.dfield.bytes := by
  cases κ with
  | coef => simp only [entryAddr, coefAddr, Nat.add_mul, Nat.add_zero, Nat.add_assoc]
  | sym => simp only [entryAddr, symAddr, Nat.zero_mul, Nat.add_zero]

theorem symElems_mul_le (d : Decoder) : symElems d * d.dfield.bytes ≤ d.ds.toNat := Nat.div_mul_le_self _ _

/-- A row ends before the next one begins. -/
theorem row_end_le_row (κ : Matrix) {r p : Nat} (h : r < p) :
    entryAddr d κ r 0 + rowLength d κ * d.dfield.bytes ≤ entryAddr d κ p 0 := by
  cases κ with
  | coef =>
    have hrow := Nat.mul_le_mul_right d.dfield.bytes (row_end_le h d.dn.toNat)
    rw [Nat.add_mul] at hrow
    simp only [entryAddr, rowLength, coefAddr, Nat.add_zero]
    omega
  | sym =>
    have hrow := row_end_le h d.ds.toNat
    have hlen := symElems_mul_le d
    simp only [entryAddr, rowLength, symAddr, Nat.zero_mul, Nat.add_zero]
    omega

/-- A row lies in the region of its matrix. -/
theorem row_inside (κ : Matrix) {r : Nat} (hr : r < d.dn.toNat) :
    (matrixRegion d κ).base ≤ entryAddr d κ r 0 ∧
      entryAddr d κ r 0 + rowLength d κ * d.dfield.bytes ≤ (matrixRegion d κ).base + (matrixRegion d κ).len := by
  have hend := row_end_le_row (d := d) κ hr
  cases κ with
  | coef =>
    simp only [entryAddr, rowLength, coefAddr, matrixRegion, coefRegion, elemRegion, Nat.add_zero] at hend ⊢
    omega
  | sym =>
    simp only [entryAddr, rowLength, symAddr, matrixRegion, symRegion, Nat.zero_mul, Nat.add_zero] at hend ⊢
    omega

/-- What lies in a region outside another one lies before or after what lies in that one. -/
theorem apart_of_regions {r q : Region} (h : regionsMeet r q = false) {a k b n : Nat} (ha : r.base ≤ a)
    (hak : a + k ≤ r.base + r.len) (hb : q.base ≤ b) (hbn : b + n ≤ q.base + q.len) (hk : 0 < k) (hn : 0 < n) :
    a + k ≤ b ∨ b + n ≤ a := by
  simp only [regionsMeet, decide_eq_false_iff_not] at h
  omega

/-- An element of a row, of a matrix apart from the other one, lies before or after every other row. -/
theorem entry_apart (happart : regionsMeet (coefRegion d) (symRegion d) = false) {κ κ' : Matrix} {r p j : Nat}
    (hr : r < d.dn.toNat) (hp : p < d.dn.toNat) (hj : j < rowLength d κ') (hne : ¬(κ' = κ ∧ p = r))
    (hlen : 0 < rowLength d κ) :
    entryAddr d κ' p j + d.dfield.bytes ≤ entryAddr d κ r 0 ∨
      entryAddr d κ r 0 + rowLength d κ * d.dfield.bytes ≤ entryAddr d κ' p j := by
  have hend := elem_end_le hj d.dfield
  have haddr := entryAddr_eq d κ' p j
  have hpos := fieldBytes_pos d.dfield
  obtain ⟨hlow, hhigh⟩ := row_inside κ hr
  obtain ⟨hlow', hhigh'⟩ := row_inside κ' hp
  by_cases hκ : κ' = κ
  · subst hκ
    obtain hlt | hgt := Nat.lt_or_gt_of_ne fun h => hne ⟨rfl, h⟩
    · have := row_end_le_row (d := d) κ' hlt
      omega
    · have := row_end_le_row (d := d) κ' hgt
      omega
  · have hmeet : regionsMeet (matrixRegion d κ') (matrixRegion d κ) = false := by
      cases κ <;> cases κ'
      · exact absurd rfl hκ
      · simpa only [regionsMeet, matrixRegion, max_comm, min_comm] using happart
      · exact happart
      · exact absurd rfl hκ
    exact apart_of_regions hmeet (by omega) (by omega) hlow hhigh hpos (Nat.mul_pos hlen hpos)

end

/-! ### Matrices in memory -/

/-- `m` holds the matrices `M`, in canonical form, and every other byte is that of `m₀`. -/
structure MatricesAre (d : Decoder) (M : Matrix → Nat → Nat → Nat) (m₀ m : Memory) : Prop where
  wf : Memory.wf m
  entry : ∀ (κ : Matrix) {r j : Nat}, r < d.dn.toNat → j < rowLength d κ → entryAt d m κ r j = M κ r j
  frame : ∀ a, regionsHave [coefRegion d, symRegion d] a = false → Memory.read m a = Memory.read m₀ a

namespace MatricesAre

variable {d : Decoder} {M M' : Matrix → Nat → Nat → Nat} {m₀ m m' : Memory}

theorem refl (hm : Memory.wf m) : MatricesAre d (entryAt d m) m m := ⟨hm, fun _ _ _ _ _ => rfl, fun _ _ => rfl⟩

theorem congr (h : MatricesAre d M m₀ m)
    (heq : ∀ (κ : Matrix) {r j : Nat}, r < d.dn.toNat → j < rowLength d κ → M κ r j = M' κ r j) :
    MatricesAre d M' m₀ m :=
  ⟨h.wf, fun κ _ _ hr hj => (h.entry κ hr hj).trans (heq κ hr hj), h.frame⟩

/-- A byte of a matrix is one of its region. -/
theorem frame_of_outside (h : MatricesAre d M m₀ m) {a : Nat}
    (ha : ∀ κ, a < (matrixRegion d κ).base ∨ (matrixRegion d κ).base + (matrixRegion d κ).len ≤ a) :
    Memory.read m a = Memory.read m₀ a := by
  refine h.frame a ?_
  have hcoef := ha .coef
  have hsym := ha .sym
  simp only [matrixRegion] at hcoef hsym
  simp only [regionsHave, List.any_cons, List.any_nil, regionHas, Bool.or_false, Bool.or_eq_false_iff,
    Bool.and_eq_false_iff, decide_eq_false_iff_not]
  omega

/-- An element apart from both matrices. -/
theorem elemAt_eq (h : MatricesAre d M m₀ m) {a : Nat}
    (ha : ∀ κ, a + d.dfield.bytes ≤ (matrixRegion d κ).base ∨ (matrixRegion d κ).base + (matrixRegion d κ).len ≤ a) :
    elemAt d.dfield m a = elemAt d.dfield m₀ a :=
  elemAt_congr fun b hlow hhigh => h.frame_of_outside fun κ => by have := ha κ; omega

variable (happart : regionsMeet (coefRegion d) (symRegion d) = false)
include happart

/-- While a row is written, the entries of the other rows are as before. -/
theorem entryAt_of_rowWritten (h : MatricesAre d M m₀ m) {κ κ' : Matrix} {r p i j : Nat} {val : Nat → Nat}
    (hr : r < d.dn.toNat) (hp : p < d.dn.toNat) (hi : i ≤ rowLength d κ) (hj : j < rowLength d κ')
    (hne : ¬(κ' = κ ∧ p = r)) (hrow : RowWritten d.dfield (entryAddr d κ r 0) i val m m') :
    entryAt d m' κ' p j = M κ' p j := by
  refine Eq.trans ?_ (h.entry κ' hp hj)
  obtain rfl | hpos := i.eq_zero_or_pos
  · exact elemAt_congr fun b _ _ => hrow.frame b (by omega)
  · have hle := Nat.mul_le_mul_right d.dfield.bytes hi
    have hap := entry_apart happart hr hp hj hne (hpos.trans_le hi)
    exact hrow.elemAt_eq (by omega)

/-- A row written into one of the matrices. -/
theorem writeRow (h : MatricesAre d M m₀ m) {κ : Matrix} {r : Nat} {val : Nat → Nat} (hr : r < d.dn.toNat)
    (hrow : RowWritten d.dfield (entryAddr d κ r 0) (rowLength d κ) val m m') :
    MatricesAre d (fun κ' p => if κ' = κ ∧ p = r then val else M κ' p) m₀ m' := by
  refine ⟨hrow.wf, fun κ' p j hp hj => ?_, fun a ha => ?_⟩
  · split
    · next heq =>
      obtain ⟨rfl, rfl⟩ := heq
      rw [entryAt, entryAddr_eq]
      exact hrow.elem j hj
    · next hne => exact h.entryAt_of_rowWritten happart hr hp le_rfl hj hne hrow
  · refine (hrow.frame a ?_).trans (h.frame a ha)
    obtain ⟨hlow, hhigh⟩ := row_inside κ hr
    have hout : regionHas (matrixRegion d κ) a ≠ true := by
      simp only [regionsHave, List.any_cons, List.any_nil, Bool.or_false, Bool.or_eq_false_iff] at ha
      cases κ with
      | coef => exact Bool.eq_false_iff.1 ha.1
      | sym => exact Bool.eq_false_iff.1 ha.2
    have := mt (regionHas_iff _ a).2 hout
    omega

end MatricesAre

end Sys2Proof.Machine

/-! PROOFS. What INSERT, the insertion of a unit row and BACKSUB leave in the two matrices (43_pivot_engine.md R193, R194,
R200). -/

namespace Sys2Proof.Machine

/-- The incoming symbol meets neither matrix, and the matrices do not meet (R197, R199, R200). -/
structure SymbolApart (d : Decoder) (sp : Nat) : Prop where
  matrices : regionsMeet (coefRegion d) (symRegion d) = false
  symbol : ∀ κ, regionsMeet ⟨sp, d.ds.toNat⟩ (matrixRegion d κ) = false

section
variable {c : Config} {d : Decoder} {M : Matrix → Nat → Nat → Nat} {m₀ m m' : Memory} {sp : Nat}

/-- A row of both matrices replaced. -/
def withRow (col : Nat) (row : Matrix → Nat → Nat) (M : Matrix → Nat → Nat → Nat) (κ : Matrix) (r : Nat) : Nat → Nat :=
  if r = col then row κ else M κ r

/-- Writing row `col` of the coefficient matrix, then that of the symbol matrix. -/
theorem MatricesAre.withRow {col : Nat} {row : Matrix → Nat → Nat} (happart : regionsMeet (coefRegion d) (symRegion d) = false)
    (hcol : col < d.dn.toNat) (h : MatricesAre d M m₀ m) {m₁ : Memory}
    (hcoef : RowWritten d.dfield (entryAddr d .coef col 0) (rowLength d .coef) (row .coef) m m₁)
    (hsym : RowWritten d.dfield (entryAddr d .sym col 0) (rowLength d .sym) (row .sym) m₁ m') :
    MatricesAre d (Machine.withRow col row M) m₀ m' := by
  refine ((h.writeRow happart hcol hcoef).writeRow happart hcol hsym).congr fun κ r j _ _ => ?_
  unfold Machine.withRow
  by_cases hr : r = col <;> cases κ <;> simp [hr]

/-- The elements of an incoming symbol are not written with a row. -/
theorem symbolElem_eq (hap : SymbolApart d sp) {κ : Matrix} {r i k : Nat} {val : Nat → Nat} (hr : r < d.dn.toNat)
    (hi : i ≤ rowLength d κ) (hk : k < symElems d) (hrow : RowWritten d.dfield (entryAddr d κ r 0) i val m m') :
    elemAt d.dfield m' (sp + k * d.dfield.bytes) = elemAt d.dfield m (sp + k * d.dfield.bytes) := by
  obtain rfl | hpos := i.eq_zero_or_pos
  · exact elemAt_congr fun b _ _ => hrow.frame b (by omega)
  · obtain ⟨hlow, hhigh⟩ := row_inside κ hr
    have hend := symElem_end_le hk
    have hle := Nat.mul_le_mul_right d.dfield.bytes hi
    have hbytes := fieldBytes_pos d.dfield
    refine hrow.elemAt_eq (apart_of_regions (hap.symbol κ) (Nat.le_add_right _ _) ?_ hlow (by omega) hbytes
      (Nat.mul_pos hpos hbytes))
    simp only
    omega

/-! ### INSERT -/

/-- The incoming symbol reduced by the factors (R193). -/
def symbolReduced (c : Config) (d : Decoder) (m : Memory) (fs : List Nat) (sp k : Nat) : Nat :=
  gfAdd (elemAt d.dfield m (sp + k * d.dfield.bytes))
    (gfSum (fun p => gfMul c d.dfield (fs.getD p 0) (symAt d m p k)) d.dn.toNat)

theorem eq_of_reducedSymbol_eq_ok {fs : List Nat} {k t : Nat} (h : reducedSymbol c d fs sp k m = .ok t) :
    t = symbolReduced c d m fs sp k := by
  obtain ⟨x, hx, h⟩ := exists_of_bind_eq_ok h
  obtain rfl := eq_of_elemRead_eq_ok hx
  refine loop_invariant (fun n t => t = gfAdd (elemAt d.dfield m (sp + k * d.dfield.bytes))
    (gfSum (fun p => gfMul c d.dfield (fs.getD p 0) (symAt d m p k)) n)) (fun p t t' _ ht ht' => ?_) (gfAdd_zero _).symm h
  subst ht
  rw [gfSum, gfAdd, gfAdd, ← Nat.xor_assoc]
  split at ht'
  · obtain ⟨y, hy, ht'⟩ := exists_of_bind_eq_ok ht'
    rw [eq_of_elemRead_eq_ok hy] at ht'
    exact (Except.ok.inj ht').symm
  · next hzero =>
    rw [not_not.1 hzero, gfMul_zero_left, Nat.xor_zero]
    exact (Except.ok.inj ht').symm

/-- The normalised row and symbol (R193). -/
def normalisedRow (c : Config) (d : Decoder) (m : Memory) (col : Nat) (w fs : List Nat) (sp : Nat) : Matrix → Nat → Nat
  | .coef => fun j => gfMul c d.dfield (gfInv c d.dfield (w.getD col 0)) (w.getD j 0)
  | .sym => fun k => gfMul c d.dfield (gfInv c d.dfield (w.getD col 0)) (symbolReduced c d m fs sp k)

theorem normalisedRow_lt (hc : c.wellFormed = true) (col : Nat) (w fs : List Nat) (κ : Matrix) (j : Nat) :
    normalisedRow c d m col w fs sp κ j < 2 ^ d.dfield.width := by
  cases κ <;> exact gfMul_lt hc (gfInv_lt hc _) _

/-- INSERT at a row that is not one of the factors (R193). -/
theorem matricesAre_of_insertRow (hc : c.wellFormed = true) (hm : Memory.wf m) (hap : SymbolApart d sp) {col : Nat}
    (hcol : col < d.dn.toNat) {w fs : List Nat} (hfs : fs.getD col 0 = 0) (h : insertRow c d col w fs sp m = .ok m') :
    MatricesAre d (withRow col (normalisedRow c d m col w fs sp) (entryAt d m)) m m' := by
  obtain ⟨m₁, h₁, h₂⟩ := exists_of_bind_eq_ok h
  have hstart : MatricesAre d (entryAt d m) m m := .refl hm
  have hcoef : RowWritten d.dfield (entryAddr d .coef col 0) (rowLength d .coef)
      (normalisedRow c d m col w fs sp .coef) m m₁ := by
    refine rowWritten_of_loop (c := c) hm (fun j x y _ _ hy => ⟨normalisedRow_lt hc _ _ _ _ _, ?_⟩) h₁
    rwa [← entryAddr_eq]
  refine hstart.withRow hap.matrices hcol hcoef (rowWritten_of_loop (c := c) hcoef.wf (fun k x y hk hx hy => ?_) h₂)
  obtain ⟨t, ht, hy⟩ := exists_of_bind_eq_ok hy
  have ht' : t = symbolReduced c d m fs sp k := by
    rw [eq_of_reducedSymbol_eq_ok ht, symbolReduced, symbolElem_eq hap hcol hk.le hk hx,
      symbolElem_eq hap hcol le_rfl hk hcoef, symbolReduced]
    refine congrArg (gfAdd _) (gfSum_congr fun p hp => ?_)
    by_cases hpcol : p = col
    · rw [hpcol, hfs, gfMul_zero_left, gfMul_zero_left]
    · have hmid := hstart.writeRow hap.matrices hcol hcoef
      have hkept := hmid.entryAt_of_rowWritten hap.matrices (κ' := .sym) (p := p) (j := k) hcol hp hk.le hk
        (fun h => hpcol h.2) hx
      rw [← entryAt_sym, hkept, if_neg fun h => hpcol h.2, entryAt_sym]
  rw [ht'] at hy
  refine ⟨normalisedRow_lt hc _ _ _ _ _, ?_⟩
  rw [← entryAddr_eq]
  exact hy

/-! ### The insertion of a unit row -/

/-- The unit row and the raw symbol (R200). -/
def unitRow (d : Decoder) (m : Memory) (i sp : Nat) : Matrix → Nat → Nat
  | .coef => fun j => if j = i then 1 else 0
  | .sym => fun k => elemAt d.dfield m (sp + k * d.dfield.bytes)

theorem unitRow_lt (i sp : Nat) (κ : Matrix) (j : Nat) : unitRow d m i sp κ j < 2 ^ d.dfield.width := by
  cases κ with
  | coef =>
    simp only [unitRow]
    split
    · exact Nat.one_lt_two_pow (width_pos _).ne'
    · exact Nat.two_pow_pos _
  | sym => exact elemAt_lt _ _ _

theorem matricesAre_of_insertUnitRow (hm : Memory.wf m) (hap : SymbolApart d sp) {i : Nat} (hi : i < d.dn.toNat)
    (h : insertUnitRow c d i sp m = .ok m') : MatricesAre d (withRow i (unitRow d m i sp) (entryAt d m)) m m' := by
  obtain ⟨m₁, h₁, h₂⟩ := exists_of_bind_eq_ok h
  have hcoef : RowWritten d.dfield (entryAddr d .coef i 0) (rowLength d .coef) (unitRow d m i sp .coef) m m₁ := by
    refine rowWritten_of_loop (c := c) hm (fun j x y _ _ hy => ⟨unitRow_lt _ _ _ _, ?_⟩) h₁
    rwa [← entryAddr_eq]
  refine (MatricesAre.refl hm).withRow hap.matrices hi hcoef
    (rowWritten_of_loop (c := c) hcoef.wf (fun k x y hk hx hy => ⟨unitRow_lt _ _ _ _, ?_⟩) h₂)
  obtain ⟨t, ht, hy⟩ := exists_of_bind_eq_ok hy
  rw [eq_of_elemRead_eq_ok ht, symbolElem_eq hap hi hk.le hk hx, symbolElem_eq hap hi le_rfl hk hcoef] at hy
  rw [← entryAddr_eq]
  exact hy

/-! ### BACKSUB -/

/-- Row `col` back-substituted into the stored rows below `i` (R194). -/
def substituted (c : Config) (d : Decoder) (col i : Nat) (M : Matrix → Nat → Nat → Nat) (κ : Matrix) (r j : Nat) : Nat :=
  if r < i ∧ pivAt d r = true ∧ r ≠ col then gfAdd (M κ r j) (gfMul c d.dfield (M .coef r col) (M κ col j)) else M κ r j

/-- One row of a matrix gets `g` times another one added (R194). -/
theorem rowWritten_of_backsubElems (hc : c.wellFormed = true)
    (happart : regionsMeet (coefRegion d) (symRegion d) = false) (h : MatricesAre d M m₀ m) {κ : Matrix} {r col g : Nat}
    (hr : r < d.dn.toNat) (hcol : col < d.dn.toNat) (hne : r ≠ col) (hg : g < 2 ^ d.dfield.width)
    (hloop : loop (fun j m => backsubElem c d.dfield g (entryAddr d κ r j) (entryAddr d κ col j) m) (rowLength d κ) m =
      .ok m') :
    RowWritten d.dfield (entryAddr d κ r 0) (rowLength d κ) (fun j => gfAdd (M κ r j) (gfMul c d.dfield g (M κ col j)))
      m m' := by
  refine rowWritten_of_loop (c := c) h.wf (fun j x y hj hx hy => ?_) hloop
  obtain ⟨a, ha, hy⟩ := exists_of_bind_eq_ok hy
  obtain ⟨b, hb, hy⟩ := exists_of_bind_eq_ok hy
  have ha' : a = M κ r j := by
    rw [eq_of_elemRead_eq_ok ha, ← h.entry κ hr hj]
    exact hx.elemAt_eq (.inr (by rw [entryAddr_eq d κ r j]))
  have hb' : b = M κ col j :=
    (eq_of_elemRead_eq_ok hb).trans (h.entryAt_of_rowWritten happart hr hcol hj.le hj (fun h => hne h.2.symm) hx)
  have hMr : M κ r j < 2 ^ d.dfield.width := h.entry κ hr hj ▸ entryAt_lt d m κ r j
  rw [ha', hb'] at hy
  refine ⟨gfAdd_lt hMr (gfMul_lt hc hg _), ?_⟩
  rwa [← entryAddr_eq]

theorem substituted_succ_of_skipped {col r : Nat} (h : ¬(pivAt d r = true ∧ r ≠ col)) :
    substituted c d col (r + 1) M = substituted c d col r M := by
  refine funext fun κ => funext fun p => funext fun j => ?_
  have hiff : p < r + 1 ∧ pivAt d p = true ∧ p ≠ col ↔ p < r ∧ pivAt d p = true ∧ p ≠ col := by
    refine and_congr_left fun hp => ⟨fun hlt => ?_, fun hlt => by omega⟩
    obtain rfl | hlt := Nat.eq_or_lt_of_le (Nat.lt_succ_iff.1 hlt)
    · exact absurd hp h
    · exact hlt
  simp only [substituted, hiff]

/-- A row not yet reached, and row `col` itself, are as they were. -/
theorem substituted_of_not {col i r : Nat} (h : i ≤ r ∨ r = col) (κ : Matrix) (j : Nat) :
    substituted c d col i M κ r j = M κ r j := if_neg (by omega)

theorem matricesAre_of_backsubRow (hc : c.wellFormed = true)
    (happart : regionsMeet (coefRegion d) (symRegion d) = false) {col r : Nat} (hcol : col < d.dn.toNat)
    (hr : r < d.dn.toNat) (h : MatricesAre d (substituted c d col r M) m₀ m) (hrow : backsubRow c d col r m = .ok m') :
    MatricesAre d (substituted c d col (r + 1) M) m₀ m' := by
  unfold backsubRow at hrow
  split at hrow
  case isFalse hskip =>
    rw [substituted_succ_of_skipped (by simpa using hskip), ← Except.ok.inj hrow]
    exact h
  case isTrue hcond =>
    simp only [Bool.and_eq_true, decide_eq_true_eq] at hcond
    obtain ⟨hpiv, hne⟩ := hcond
    obtain ⟨g, hg, hrow⟩ := exists_of_bind_eq_ok hrow
    have hg' : g = M .coef r col := by
      rw [← substituted_of_not (c := c) (d := d) (M := M) (col := col) (.inl (le_refl r)) .coef col]
      exact (eq_of_elemRead_eq_ok hg).trans (h.entry .coef hr hcol)
    have hglt : g < 2 ^ d.dfield.width := eq_of_elemRead_eq_ok hg ▸ elemAt_lt _ _ _
    have hM : ∀ κ p j, substituted c d col (r + 1) M κ p j =
        if p = r then gfAdd (M κ r j) (gfMul c d.dfield g (M κ col j)) else substituted c d col r M κ p j := by
      intro κ p j
      by_cases hp : p = r
      · subst hp
        rw [if_pos rfl, substituted, if_pos ⟨p.lt_succ_self, hpiv, hne⟩, hg']
      · have hlt : p < r + 1 ↔ p < r := by omega
        simp only [if_neg hp, substituted, hlt]
    split at hrow
    · obtain ⟨m₁, h₁, h₂⟩ := exists_of_bind_eq_ok hrow
      have hcoef := rowWritten_of_backsubElems (κ := .coef) hc happart h hr hcol hne hglt h₁
      have hmid := h.writeRow happart hr hcoef
      have hsym := rowWritten_of_backsubElems (κ := .sym) hc happart hmid hr hcol hne hglt h₂
      refine (hmid.writeRow happart hr hsym).congr fun κ p j _ _ => ?_
      rw [hM]
      have hrow := fun κ j => substituted_of_not (c := c) (d := d) (M := M) (col := col) (.inl (le_refl r)) κ j
      have hcolrow := fun κ j => substituted_of_not (c := c) (d := d) (M := M) (i := r) (.inr (Eq.refl col)) κ j
      by_cases hp : p = r <;> cases κ <;> simp [hp, hrow, hcolrow]
    · next hzero =>
      rw [← Except.ok.inj hrow]
      refine h.congr fun κ p j _ _ => ?_
      rw [hM, not_not.1 hzero, gfMul_zero_left, gfAdd_zero]
      split
      · next hp => rw [hp, substituted_of_not (.inl le_rfl)]
      · rfl

theorem matricesAre_of_backsub (hc : c.wellFormed = true)
    (happart : regionsMeet (coefRegion d) (symRegion d) = false) {col : Nat} (hcol : col < d.dn.toNat)
    (h : MatricesAre d M m₀ m) (hsub : backsub c d col m = .ok m') :
    MatricesAre d (substituted c d col d.dn.toNat M) m₀ m' := by
  refine loop_invariant (fun r x => MatricesAre d (substituted c d col r M) m₀ x)
    (fun r x y hr hx hy => matricesAre_of_backsubRow hc happart hcol hr hx hy) ?_ hsub
  exact h.congr fun κ r j _ _ => (if_neg fun hlt => absurd hlt.1 (Nat.not_lt_zero r)).symm

end

end Sys2Proof.Machine

/-! PROOFS. The insertion of a row by a consume: it succeeds on mapped buffers, and what it leaves (43_pivot_engine.md
R193, R194, R199, R200). -/

namespace Sys2Proof.Machine

/-! ### The matrices after an insertion -/

/-- The matrices after `row` has become row `col` and has been back-substituted into the stored rows. -/
def insertedRows (c : Config) (d : Decoder) (m : Memory) (col : Nat) (row : Matrix → Nat → Nat) (κ : Matrix)
    (r j : Nat) : Nat :=
  if r = col then row κ j
  else if pivAt d r = true then gfAdd (entryAt d m κ r j) (gfMul c d.dfield (coefAt d m r col) (row κ j))
  else entryAt d m κ r j

/-- Storing a row as a pivot moves no matrix. -/
theorem matricesAre_addPivot_iff {d : Decoder} {M : Matrix → Nat → Nat → Nat} {m₀ m : Memory} (col : Nat) :
    MatricesAre (addPivot d col) M m₀ m ↔ MatricesAre d M m₀ m :=
  ⟨fun h => ⟨h.wf, h.entry, h.frame⟩, fun h => ⟨h.wf, h.entry, h.frame⟩⟩

theorem substituted_withRow {d : Decoder} {col : Nat} (hlen : col < d.piv.length) (c : Config) (m : Memory)
    (row : Matrix → Nat → Nat) (κ : Matrix) {r : Nat} (hr : r < d.dn.toNat) (j : Nat) :
    substituted c (addPivot d col) col d.dn.toNat (withRow col row (entryAt d m)) κ r j =
      insertedRows c d m col row κ r j := by
  by_cases hcol : r = col
  · rw [substituted_of_not (.inr hcol), withRow, insertedRows, if_pos hcol, if_pos hcol]
  · simp only [substituted, withRow, insertedRows, pivAt_addPivot d col r hlen, hcol, hr, if_false, if_true, ne_eq,
      not_false_eq_true, and_true, true_and, entryAt_coef]
    rfl

/-- An inserted row, back-substituted. -/
theorem matricesAre_of_insertion {c : Config} {d : Decoder} {m m₁ m' : Memory} {col : Nat} {row : Matrix → Nat → Nat}
    (hc : c.wellFormed = true) (happart : regionsMeet (coefRegion d) (symRegion d) = false) (hcol : col < d.dn.toNat)
    (hlen : col < d.piv.length) (h : MatricesAre d (withRow col row (entryAt d m)) m m₁)
    (hsub : backsub c (addPivot d col) col m₁ = .ok m') : MatricesAre d (insertedRows c d m col row) m m' := by
  have hafter := matricesAre_of_backsub (d := addPivot d col) hc happart hcol ((matricesAre_addPivot_iff col).2 h) hsub
  exact ((matricesAre_addPivot_iff col).1 hafter).congr fun κ r j hr _ => substituted_withRow hlen c m row κ hr j

section
variable {c : Config} {d : Decoder} {m m' : Memory} {col : Nat} {row : Matrix → Nat → Nat}
  (h : MatricesAre d (insertedRows c d m col row) m m') {κ : Matrix} {r j : Nat} (hj : j < rowLength d κ)
include h hj

theorem entryAt_of_insertedRow (hcol : col < d.dn.toNat) : entryAt d m' κ col j = row κ j :=
  (h.entry κ hcol hj).trans (if_pos rfl)

theorem entryAt_of_storedRow (hcol : col < d.dn.toNat) (hfree : pivAt d col = false) (hr : r < d.dn.toNat)
    (hpiv : pivAt d r = true) : entryAt d m' κ r j =
      gfAdd (entryAt d m κ r j) (gfMul c d.dfield (coefAt d m r col) (entryAt d m' κ col j)) := by
  have hne : r ≠ col := by
    rintro rfl
    exact absurd hpiv (Bool.eq_false_iff.1 hfree)
  rw [h.entry κ hr hj, insertedRows, if_neg hne, if_pos hpiv, entryAt_of_insertedRow h hj hcol]

theorem entryAt_of_otherRow (hr : r < d.dn.toNat) (hne : r ≠ col) (hpiv : pivAt d r = false) :
    entryAt d m' κ r j = entryAt d m κ r j := by
  rw [h.entry κ hr hj, insertedRows, if_neg hne, if_neg (Bool.eq_false_iff.1 hpiv)]

end

/-! ### The procedures succeed on mapped buffers -/

theorem bind_succeeds {α β : Type} {x : Except ErrorCode α} {g : α → Except ErrorCode β} (hx : ∃ a, x = .ok a)
    (hg : ∀ a, ∃ b, g a = .ok b) : ∃ b, (x >>= g) = .ok b := by
  obtain ⟨a, rfl⟩ := hx
  exact hg a

theorem loop_succeeds_of_steps {σ : Type} {body : Nat → σ → Except ErrorCode σ} {n : Nat}
    (h : ∀ i < n, ∀ x, ∃ y, body i x = .ok y) (x : σ) : ∃ y, loop body n x = .ok y := by
  obtain ⟨y, hy, -⟩ := loop_succeeds (n := n) (fun _ _ => True)
    (fun i x hi _ => by obtain ⟨y, hy⟩ := h i hi x; exact ⟨y, hy, trivial⟩) (x := x) trivial
  exact ⟨y, hy⟩

section
variable {c : Config} {d : Decoder} (hd : MatricesMapped c d)
include hd

theorem insertRow_succeeds {sp : Nat} (hsp : SymbolMapped c d sp) {col : Nat} (hcol : col < d.dn.toNat) (v fs : List Nat)
    (m : Memory) : ∃ m', insertRow c d col v fs sp m = .ok m' := by
  refine bind_succeeds (loop_succeeds_of_steps (fun j hj x => elemWrite_succeeds (hd.coef hcol hj) x _) m) fun m₁ =>
    loop_succeeds_of_steps (fun k hk x => bind_succeeds ?_ fun t => elemWrite_succeeds (hd.sym hcol hk) x _) m₁
  refine bind_succeeds ⟨_, elemRead_eq (hsp k hk) x⟩ fun t => loop_succeeds_of_steps (fun p hp t => ?_) t
  split
  · exact bind_succeeds ⟨_, elemRead_eq (hd.sym hp hk) x⟩ fun y => ⟨_, rfl⟩
  · exact ⟨_, rfl⟩

theorem backsub_succeeds {col : Nat} (hcol : col < d.dn.toNat) (m : Memory) : ∃ m', backsub c d col m = .ok m' := by
  have helem : ∀ {target source : Nat}, elemMapped c d.dfield target → elemMapped c d.dfield source → ∀ g x,
      ∃ y, backsubElem c d.dfield g target source x = .ok y := fun ht hs g x =>
    bind_succeeds ⟨_, elemRead_eq ht x⟩ fun _ => bind_succeeds ⟨_, elemRead_eq hs x⟩ fun _ => elemWrite_succeeds ht x _
  refine loop_succeeds_of_steps (fun r hr x => ?_) m
  unfold backsubRow
  split
  · refine bind_succeeds ⟨_, elemRead_eq (hd.coef hr hcol) x⟩ fun g => ?_
    split
    · exact bind_succeeds (loop_succeeds_of_steps (fun j hj => helem (hd.coef hr hj) (hd.coef hcol hj) g) x) fun y =>
        loop_succeeds_of_steps (fun k hk => helem (hd.sym hr hk) (hd.sym hcol hk) g) y
    · exact ⟨_, rfl⟩
  · exact ⟨_, rfl⟩

theorem insertUnitRow_succeeds {sp : Nat} (hsp : SymbolMapped c d sp) {i : Nat} (hi : i < d.dn.toNat) (m : Memory) :
    ∃ m', insertUnitRow c d i sp m = .ok m' :=
  bind_succeeds (loop_succeeds_of_steps (fun _ hj x => elemWrite_succeeds (hd.coef hi hj) x _) m) fun m₁ =>
    loop_succeeds_of_steps (fun k hk x => bind_succeeds ⟨_, elemRead_eq (hsp k hk) x⟩ fun _ =>
      elemWrite_succeeds (hd.sym hi hk) x _) m₁

end

/-! ### What the checks and FORWARD say of the new row -/

theorem symbolApart_of_checksPass {f : Field} {i : Instr} {s : State} {l : Latched} (hwf : SessionGeometry s.dec)
    (hi : i = .decConsume f ∨ i = .decConsumeSys f) (h : checksPass i l s = true) :
    SymbolApart s.dec l.ops.a1.toNat := by
  obtain ⟨-, -, -, -, -, hapart, -⟩ := hwf
  have hmeet : meetsMatrix s.dec (consumeSymbol s.dec l) = false := by
    obtain rfl | rfl := hi
    · have hcheck : (meetsMatrix s.dec (consumeVector s.dec l) || meetsMatrix s.dec (consumeSymbol s.dec l)) = false :=
        check_of_checksPass h (e := .overlap) (by simp [checks, decConsumeChecks])
      exact (Bool.or_eq_false_iff.1 hcheck).2
    · exact check_of_checksPass h (e := .overlap) (by simp [checks, decConsumeSysChecks])
  obtain ⟨hcoef, hsym⟩ := Bool.or_eq_false_iff.1 hmeet
  exact ⟨hapart, fun κ => by cases κ; exacts [hcoef, hsym]⟩

section
variable {c : Config} {d : Decoder} {m : Memory} {v w fs : List Nat} (hv : v.length = d.dn.toNat)
  (h : forward c d m v = .ok (w, fs))
include hv h

theorem forward_vector {j : Nat} (hj : j < d.dn.toNat) :
    w.getD j 0 = reduction c d m (fun j => v.getD j 0) d.dn.toNat j := by
  rw [(Prod.mk.inj (eq_of_forward_eq_ok hv h)).1, getD_map_range hj]

theorem forward_factor {p : Nat} (hp : p < d.dn.toNat) :
    fs.getD p 0 = pivotFactor c d m p (reduction c d m (fun j => v.getD j 0) p p) := by
  rw [(Prod.mk.inj (eq_of_forward_eq_ok hv h)).2, getD_map_range hp, if_pos hp]

theorem forward_factor_of_not_stored {p : Nat} (hp : p < d.dn.toNat) (hpiv : pivAt d p = false) : fs.getD p 0 = 0 := by
  rw [forward_factor hv h hp, pivotFactor_of_not_stored hpiv]

theorem forward_vector_length : w.length = d.dn.toNat := by
  rw [(Prod.mk.inj (eq_of_forward_eq_ok hv h)).1, List.length_map, List.length_range]

end

/-! ### The two insertions -/

/-- CONSUME_ROW of a vector that is inserted (R199, steps 3 and 4). -/
theorem consumeRow_eq_inserted {s : State} {l : Latched} {v w fs : List Nat} {col sp : Nat} {m m' : Memory}
    (hcoef : regionMapped s.config (coefRegion s.dec)) (hforward : forward s.config s.dec s.memory v = .ok (w, fs))
    (hfirst : firstNonzeroAt w col) (hfree : pivAt s.dec col = false)
    (hinsert : insertRow s.config s.dec col w fs sp s.memory = .ok m)
    (hsub : backsub s.config (addPivot s.dec col) col m = .ok m') :
    consumeRow s l v sp = .ok (inserted s l.su col (statusOf w) m') := by
  rw [consumeRow, hforward]
  simp only [bind, Except.bind, findIdx?_of_firstNonzeroAt hfirst, hfree, Bool.false_eq_true, if_false, hinsert, hsub]
  exact finishConsume_eq (d := setStat (addPivot s.dec col) col (statusOf w)) (fun _ => hcoef) _ _ _

/-- Settles O33: INSERT and BACKSUB succeed on mapped buffers, and leave `insertedRows`. -/
theorem independentVectorIsInserted : Obligations.IndependentVectorIsInserted := by
  intro s l w fs col hc hm hwf hl hpass hquiet hmap hforward hfirst hfree
  simp only [allMapped_cons, allMapped_nil, and_true] at hmap
  obtain ⟨hvec, hsymbol, hcoef, hsym⟩ := hmap
  obtain ⟨⟨hpivlen, -, hdn, -⟩, hgeo⟩ := hwf
  have hd := matricesMapped_of_regionMapped hcoef hsym
  have hlenv := vectorAt_length s.dec s.memory l.ops.a0.toNat
  have hcol : col < s.dec.dn.toNat := forward_vector_length hlenv hforward ▸ hfirst.1
  have hap := symbolApart_of_checksPass hgeo (.inl rfl) hpass
  obtain ⟨m₁, hinsert⟩ :=
    insertRow_succeeds hd (symbolMapped_of_regionMapped (sp := l.ops.a1.toNat) hsymbol) hcol w fs s.memory
  obtain ⟨m, hsub⟩ := backsub_succeeds (matricesMapped_addPivot hd col) hcol m₁
  have hrows := matricesAre_of_insertion hc hap.matrices hcol (by omega)
    (matricesAre_of_insertRow hc hm hap hcol (forward_factor_of_not_stored hlenv hforward hcol hfree) hinsert) hsub
  have hbody := (commandBody_decConsume (f := s.dec.dfield) hvec).trans
    (consumeRow_eq_inserted (l := l) hcoef hforward hfirst hfree hinsert hsub)
  have hstored := fun κ {r j} (hr : r < s.dec.dn.toNat) hpiv (hj : j < rowLength s.dec κ) =>
    entryAt_of_storedRow hrows hj hcol hfree hr hpiv
  have hother := fun κ {r j} (hr : r < s.dec.dn.toNat) hne hpiv (hj : j < rowLength s.dec κ) =>
    entryAt_of_otherRow hrows hj hr hne hpiv
  exact ⟨m, exec_of_body_ok hl (firstError_of_checksPass hpass) hquiet hbody,
    fun j hj => entryAt_of_insertedRow hrows (κ := .coef) hj hcol,
    fun k hk => entryAt_of_insertedRow hrows (κ := .sym) hk hcol,
    fun r hr hpiv => ⟨fun j hj => hstored .coef hr hpiv hj, fun k hk => hstored .sym hr hpiv hk⟩,
    fun r hr hne hpiv => ⟨fun j hj => hother .coef hr hne hpiv hj, fun k hk => hother .sym hr hne hpiv hk⟩,
    hrows.frame⟩

/-- DEC_CONSUME_SYS at an empty index (R200). -/
theorem consumeUnit_eq_inserted {s : State} {l : Latched} {i sp : Nat} {m m' : Memory}
    (hcoef : regionMapped s.config (coefRegion s.dec)) (hfree : pivAt s.dec i = false)
    (hinsert : insertUnitRow s.config s.dec i sp s.memory = .ok m)
    (hsub : backsub s.config (addPivot s.dec i) i m = .ok m') :
    consumeUnit s l i sp = .ok (inserted s l.su i .decoded m') := by
  rw [consumeUnit]
  simp only [bind, Except.bind, hfree, Bool.false_eq_true, if_false, hinsert, hsub]
  exact finishConsume_eq (d := setStat (addPivot s.dec i) i .decoded) (fun _ => hcoef) _ _ _

/-- Settles O34: the insertion of the unit row and BACKSUB succeed on mapped buffers, and leave `insertedRows`. -/
theorem systematicSymbolIsInserted : Obligations.SystematicSymbolIsInserted := by
  intro s l hc hm hwf hl hpass hquiet hmap hfree f n i
  simp only [allMapped_cons, allMapped_nil, and_true] at hmap
  obtain ⟨hsymbol, hcoef, hsym⟩ := hmap
  obtain ⟨⟨hpivlen, -, hdn, -⟩, hgeo⟩ := hwf
  have hd := matricesMapped_of_regionMapped hcoef hsym
  have hi : i < n := index_lt_of_checksPass hpass
  have hap := symbolApart_of_checksPass hgeo (.inr rfl) hpass
  obtain ⟨m₁, hinsert⟩ :=
    insertUnitRow_succeeds hd (symbolMapped_of_regionMapped (sp := l.ops.a1.toNat) hsymbol) hi s.memory
  obtain ⟨m, hsub⟩ := backsub_succeeds (matricesMapped_addPivot hd i) hi m₁
  have hrows := matricesAre_of_insertion hc hap.matrices hi (by omega) (matricesAre_of_insertUnitRow hm hap hi hinsert)
    hsub
  have hbody : commandBody (.decConsumeSys f) s l = .ok (inserted s l.su i .decoded m) :=
    consumeUnit_eq_inserted (l := l) hcoef hfree hinsert hsub
  have hres : BitVec.ofNat 32 i = l.ops.a0 := by simp [i]
  have hstored := fun κ {r j} (hr : r < n) hpiv (hj : j < rowLength s.dec κ) =>
    entryAt_of_storedRow hrows hj hi hfree hr hpiv
  have hother := fun κ {r j} (hr : r < n) hne hpiv (hj : j < rowLength s.dec κ) =>
    entryAt_of_otherRow hrows hj hr hne hpiv
  have hunit : ∀ {j}, j < n → coefAt s.dec m i j = if j = i then 1 else 0 := fun hj =>
    entryAt_of_insertedRow hrows (κ := .coef) hj hi
  have hcleared : ∀ {r j}, r < n → pivAt s.dec r = true → j < n →
      coefAt s.dec m r j = if j = i then 0 else coefAt s.dec s.memory r j := by
    intro r j hr hpiv hj
    refine (hstored .coef hr hpiv hj).trans ?_
    rw [entryAt_coef, entryAt_coef, hunit hj]
    by_cases hji : j = i
    · rw [if_pos hji, if_pos hji, hji, gfMul_one hc (coefAt_lt s.dec s.memory _ _), gfAdd, Nat.xor_self]
    · rw [if_neg hji, if_neg hji, gfMul_zero_right, gfAdd_zero]
  refine ⟨m, ?_, fun j hj => hunit hj, fun k hk => entryAt_of_insertedRow hrows (κ := .sym) hk hi,
    fun r hr hpiv => ⟨fun j hj => hcleared hr hpiv hj, fun k hk => hstored .sym hr hpiv hk⟩,
    fun r hr hne hpiv => ⟨fun j hj => hother .coef hr hne hpiv hj, fun k hk => hother .sym hr hne hpiv hk⟩,
    hrows.frame⟩
  rw [← hres]
  exact exec_of_body_ok hl (firstError_of_checksPass hpass) hquiet hbody

end Sys2Proof.Machine

/-! PROOFS. What a successful consume does to the matrices of the session (43_pivot_engine.md R199, R200). -/

namespace Sys2Proof.Machine

/-! ### Commands that succeed -/

/-- A command in flight that ends without an error has met its checks, and its body has succeeded. -/
theorem exists_body_of_success {i : Instr} {s t : State} {l : Latched} (hl : s.eng = .busy l)
    (hquiet : disturbed i l s = false) (h : exec i s = .next t) (hok : t.status.err = false) :
    ∃ u, checksPass i l s = true ∧ commandBody i s l = .ok u ∧ t = finished u := by
  rw [exec_eq_commandBody] at h
  obtain ⟨e, -, rfl⟩ | ⟨-, e, -, -, rfl⟩ | ⟨-, -, rfl⟩ | ⟨hcheck, u, hbody, rfl⟩ := runCommand_cases hl h
  · exact nomatch (show true = false from hok)
  · exact nomatch (show true = false from hok)
  · exact nomatch (show true = false from hok)
  · rw [disturb_of_undisturbed hquiet]
    exact ⟨u, by rw [checksPass, hcheck, Option.isNone_none], hbody, rfl⟩

/-! ### Consumes -/

/-- The vector that a consume reduces (R199, R200). -/
inductive IncomingVector (i : Instr) (s : State) (l : Latched) : List Nat → Prop
  | stored {f : Field} (hi : i = .decConsume f) : IncomingVector i s l (vectorAt s.dec s.memory l.ops.a0.toNat)
  | unit {f : Field} (hi : i = .decConsumeSys f) : IncomingVector i s l (unitVector s.dec.dn.toNat l.ops.a0.toNat)

/-- The column, the status and the row of the symbol that a consume inserts (R199, R200). -/
inductive IncomingRow (i : Instr) (s : State) (l : Latched) : Nat → SymbolStatus → (Matrix → Nat → Nat) → Prop
  | reduced {v w fs : List Nat} {col : Nat} (hv : IncomingVector i s l v)
      (hforward : forward s.config s.dec s.memory v = .ok (w, fs)) (hfirst : firstNonzeroAt w col) :
      IncomingRow i s l col (statusOf w) (normalisedRow s.config s.dec s.memory col w fs l.ops.a1.toNat)
  | unit {f : Field} (hi : i = .decConsumeSys f) :
      IncomingRow i s l l.ops.a0.toNat .decoded (unitRow s.dec s.memory l.ops.a0.toNat l.ops.a1.toNat)

theorem IncomingVector.length_eq {i : Instr} {s : State} {l : Latched} {v : List Nat} (h : IncomingVector i s l v) :
    v.length = s.dec.dn.toNat := by
  cases h with
  | stored => exact vectorAt_length _ _ _
  | unit => exact unitVector_length _ _

theorem IncomingVector.getD_lt {i : Instr} {s : State} {l : Latched} {v : List Nat} (h : IncomingVector i s l v) (j : Nat) :
    v.getD j 0 < 2 ^ s.dec.dfield.width := by
  refine Machine.getD_lt (fun y hy => ?_) j
  cases h with
  | stored =>
    obtain ⟨j, -, rfl⟩ := List.mem_map.1 hy
    exact elemAt_lt _ _ _
  | unit =>
    obtain ⟨j, -, rfl⟩ := List.mem_map.1 hy
    split
    · exact Nat.one_lt_two_pow (width_pos _).ne'
    · exact Nat.two_pow_pos _

/-- The state `u` has an incoming row inserted and back-substituted (R199, R200). -/
def RowInserted (i : Instr) (s : State) (l : Latched) (u : State) : Prop :=
  ∃ col x row m, col < s.dec.dn.toNat ∧ pivAt s.dec col = false ∧ IncomingRow i s l col x row ∧
    MatricesAre s.dec (insertedRows s.config s.dec s.memory col row) s.memory m ∧ u = inserted s l.su col x m

section
variable {i : Instr} {s u : State} {l : Latched} {f : Field} (hc : s.config.wellFormed = true)
  (hm : Memory.wf s.memory) (hwf : DecoderWf s.config s.dec) (hi : i = .decConsume f ∨ i = .decConsumeSys f)
  (hpass : checksPass i l s = true)
include hc hm hwf hi hpass

theorem consumeRow_effect {v : List Nat} (hv : IncomingVector i s l v) (h : consumeRow s l v l.ops.a1.toNat = .ok u) :
    u = discarded s l.su ∨ RowInserted i s l u := by
  obtain ⟨⟨hpivlen, -, hdn, -⟩, hgeo⟩ := hwf
  have hap := symbolApart_of_checksPass hgeo hi hpass
  obtain ⟨w, fs, hforward, ⟨-, hu⟩ | ⟨col, m, m', hfirst, hfree, hinsert, hsub, hu⟩⟩ := consumeRow_cases h
  · exact .inl hu
  · have hcol : col < s.dec.dn.toNat := forward_vector_length hv.length_eq hforward ▸ hfirst.1
    have hfs := forward_factor_of_not_stored hv.length_eq hforward hcol hfree
    exact .inr ⟨col, _, _, m', hcol, hfree, .reduced hv hforward hfirst,
      matricesAre_of_insertion hc hap.matrices hcol (by omega) (matricesAre_of_insertRow hc hm hap hcol hfs hinsert) hsub,
      hu⟩

/-- A consume that succeeds discards its pair or inserts its row. -/
theorem consume_effect (h : commandBody i s l = .ok u) : u = discarded s l.su ∨ RowInserted i s l u := by
  obtain rfl | rfl := hi
  · obtain ⟨v, hv, h⟩ := exists_of_bind_eq_ok h
    rw [eq_of_readElems_eq_ok hv] at h
    exact consumeRow_effect hc hm hwf (.inl rfl) hpass (.stored rfl) h
  · obtain ⟨-, -, h⟩ | ⟨-, -, hu⟩ | ⟨hfree, m, m', hinsert, hsub, hu⟩ := consumeUnit_cases h
    · exact consumeRow_effect hc hm hwf (.inr rfl) hpass (.unit rfl) h
    · exact .inl hu
    · obtain ⟨⟨hpivlen, -, hdn, -⟩, hgeo⟩ := hwf
      have hap := symbolApart_of_checksPass hgeo (.inr rfl) hpass
      have hcol := index_lt_of_checksPass hpass
      exact .inr ⟨_, _, _, m', hcol, hfree, .unit rfl,
        matricesAre_of_insertion hc hap.matrices hcol (by omega) (matricesAre_of_insertUnitRow hm hap hcol hinsert) hsub,
        hu⟩

end

end Sys2Proof.Machine

/-! PROOFS. INV and the unit rows of Decoded symbols over the decoder's commands (43_pivot_engine.md R190, section 4). -/

namespace Sys2Proof.Machine

/-! ### A new row under INV -/

/-- What keeps INV when `row` becomes row `col`: 1 at its pivot, 0 before it and at every stored pivot; and a row that
enters as Decoded has nothing else (R190, R206). -/
structure NewRow (d : Decoder) (col : Nat) (x : SymbolStatus) (row : Nat → Nat) : Prop where
  pivot : row col = 1
  before : ∀ j < col, row j = 0
  stored : ∀ p < d.dn.toNat, pivAt d p = true → row p = 0
  decoded : x = .decoded → ∀ j < d.dn.toNat, j ≠ col → row j = 0

/-- Two indices of the one element counted are equal. -/
theorem eq_of_countP_range_eq_one {n : Nat} {p : Nat → Bool} (h : (List.range n).countP p = 1) {i j : Nat} (hi : i < n)
    (hj : j < n) (hpi : p i = true) (hpj : p j = true) : i = j := by
  rw [List.countP_eq_length_filter, List.length_eq_one_iff] at h
  obtain ⟨a, ha⟩ := h
  have hmem : ∀ {k}, k < n → p k = true → k = a := fun hk hpk =>
    List.mem_singleton.1 (ha ▸ List.mem_filter.2 ⟨List.mem_range.2 hk, hpk⟩)
  rw [hmem hi hpi, hmem hj hpj]

theorem reduction_lt {c : Config} {d : Decoder} {m : Memory} {v : Nat → Nat} (hc : c.wellFormed = true)
    (hv : ∀ j, v j < 2 ^ d.dfield.width) (p j : Nat) : reduction c d m v p j < 2 ^ d.dfield.width := by
  induction p generalizing j with
  | zero => exact hv j
  | succ p ih =>
    refine gfAdd_lt (ih j) (gfMul_lt hc ?_ _)
    unfold pivotFactor
    split
    · exact gfDiv_lt hc (ih p) _
    · exact Nat.two_pow_pos _

section
variable {i : Instr} {s : State} {l : Latched} {col : Nat} {x : SymbolStatus} {row : Matrix → Nat → Nat}

/-- The incoming row of a consume is such a row. -/
theorem newRow_of_incomingRow (hc : s.config.wellFormed = true) (hinv : MatrixInv s.dec s.memory)
    (hfree : pivAt s.dec col = false) (h : IncomingRow i s l col x row) : NewRow s.dec col x (row .coef) := by
  cases h with
  | @reduced v w fs _ hv hforward hfirst =>
    obtain ⟨hlen, hne, hbefore⟩ := hfirst
    rw [forward_vector_length hv.length_eq hforward] at hlen
    have hw := fun {j} (hj : j < s.dec.dn.toNat) => forward_vector hv.length_eq hforward hj
    refine ⟨?_, fun j hj => ?_, fun p hp hpiv => ?_, fun hx j hj hjne => ?_⟩
    · exact gfInv_gfMul hc (hw hlen ▸ reduction_lt hc hv.getD_lt _ _) hne
    · simp only [normalisedRow, hbefore j hj, gfMul_zero_right]
    · simp only [normalisedRow, hw hp, reduction_stored_eq_zero hinv hc hv.getD_lt hp hpiv, gfMul_zero_right]
    · have hcount : (List.range s.dec.dn.toNat).countP (fun j => decide (w.getD j 0 ≠ 0)) = 1 := by
        have hone : nonzeros w = 1 := by
          by_contra hmany
          rw [statusOf, if_neg hmany] at hx
          cases hx
        rw [← map_getD_range (forward_vector_length hv.length_eq hforward), nonzeros, List.countP_map] at hone
        exact hone
      have hzero : w.getD j 0 = 0 := by
        by_contra hnz
        exact hjne (eq_of_countP_range_eq_one hcount hj hlen (decide_eq_true hnz) (decide_eq_true hne))
      simp only [normalisedRow, hzero, gfMul_zero_right]
  | unit hi =>
    refine ⟨if_pos rfl, fun j hj => if_neg hj.ne, fun p hp hpiv => if_neg ?_, fun _ j _ hne => if_neg hne⟩
    rintro rfl
    exact absurd hpiv (Bool.eq_false_iff.1 hfree)

end

/-- A stored row after the insertion: its old entries plus a multiple of the new row. -/
theorem coefAt_of_storedRow {c : Config} {d : Decoder} {m m' : Memory} {col r j : Nat} {row : Matrix → Nat → Nat}
    (hrows : MatricesAre d (insertedRows c d m col row) m m') (hcol : col < d.dn.toNat) (hfree : pivAt d col = false)
    (hr : r < d.dn.toNat) (hpiv : pivAt d r = true) (hj : j < d.dn.toNat) :
    coefAt d m' r j = gfAdd (coefAt d m r j) (gfMul c d.dfield (coefAt d m r col) (row .coef j)) := by
  have hstored := entryAt_of_storedRow hrows (κ := .coef) hj hcol hfree hr hpiv
  rwa [entryAt_of_insertedRow hrows (κ := .coef) hj hcol] at hstored

section
variable {c : Config} {d : Decoder} {m m' : Memory} {col : Nat} {x : SymbolStatus} {row : Matrix → Nat → Nat}
  (hwf : PivotsWf c d) (hcol : col < d.dn.toNat) (hfree : pivAt d col = false) (hnew : NewRow d col x (row .coef))
  (hrows : MatricesAre d (insertedRows c d m col row) m m')
include hwf hcol hfree hnew hrows

theorem decodedUnit_of_insertion (hunit : DecodedUnit d m) : DecodedUnit (setStat (addPivot d col) col x) m' := by
  intro r hr hstat j hj hne
  change r < d.dn.toNat at hr
  change j < d.dn.toNat at hj
  rw [statAt_setStat (addPivot d col) col r x (hwf.statLength.symm ▸ hcol.trans_le hwf.dn_le)] at hstat
  by_cases hrc : r = col
  · subst hrc
    rw [if_pos rfl] at hstat
    exact (entryAt_of_insertedRow hrows (κ := .coef) hj hcol).trans (hnew.decoded hstat j hj hne)
  · rw [if_neg hrc] at hstat
    have hpiv : pivAt d r = true := (hwf.stored_iff r).2 (by rw [show statAt d r = .decoded from hstat]; exact nofun)
    refine (coefAt_of_storedRow hrows hcol hfree hr hpiv hj).trans ?_
    rw [hunit r hr hstat j hj hne, hunit r hr hstat col hcol (Ne.symm hrc), gfMul_zero_left, gfAdd_zero]

variable (hc : c.wellFormed = true) (hinv : MatrixInv d m)
include hc hinv

theorem matrixInv_of_insertion (hx : x ≠ .missing) : MatrixInv (setStat (addPivot d col) col x) m' := by
  have hpivAt : ∀ r, pivAt (setStat (addPivot d col) col x) r = if r = col then true else pivAt d r := fun r =>
    pivAt_addPivot d col r (hwf.pivLength.symm ▸ hcol.trans_le hwf.dn_le)
  have hnewRow := fun {j} (hj : j < d.dn.toNat) => entryAt_of_insertedRow hrows (κ := .coef) hj hcol
  have hrow := fun {r} (hr : r < d.dn.toNat) hpiv {j} hj =>
    coefAt_of_storedRow hrows hcol hfree hr hpiv (j := j) hj
  refine ⟨fun r hr hpiv => ?_, (hwf.insert hcol hfree hx).rank⟩
  change r < d.dn.toNat at hr
  rw [hpivAt] at hpiv
  by_cases hrc : r = col
  · subst hrc
    refine ⟨(hnewRow hr).trans hnew.pivot, fun j hj => (hnewRow (hj.trans hr)).trans (hnew.before j hj),
      fun p hp hne hp' => (hnewRow hp).trans (hnew.stored p hp ?_)⟩
    rwa [hpivAt, if_neg hne] at hp'
  · rw [if_neg hrc] at hpiv
    obtain ⟨hone, hbefore, hclear⟩ := hinv.1 r hr hpiv
    refine ⟨?_, fun j hj => ?_, fun p hp hne hp' => ?_⟩
    · exact (hrow hr hpiv hr).trans (by rw [hnew.stored r hr hpiv, gfMul_zero_right, gfAdd_zero, hone])
    · refine (hrow hr hpiv (hj.trans hr)).trans ?_
      obtain hlt | hle := lt_or_ge col r
      · rw [hbefore col hlt, gfMul_zero_left, gfAdd_zero, hbefore j hj]
      · rw [hnew.before j (hj.trans_le hle), gfMul_zero_right, gfAdd_zero, hbefore j hj]
    · refine (hrow hr hpiv hp).trans ?_
      rw [hpivAt] at hp'
      by_cases hpc : p = col
      · rw [hpc, hnew.pivot, gfMul_one hc (coefAt_lt d m r col), gfAdd, Nat.xor_self]
      · rw [if_neg hpc] at hp'
        rw [hclear p hp hne hp', hnew.stored p hp hp', gfMul_zero_right, gfAdd_zero]

end

/-! ### SCAN and the commit -/

/-- INV speaks of PIV, RANK and memory only. -/
theorem matrixInv_committed_iff (su dep : Bool) (m m' : Memory) (d : Decoder) :
    MatrixInv { updateCounts (scannedIf su m d) with dep := dep } m' ↔ MatrixInv d m' := by
  rw [scannedIf_eq]
  exact Iff.rfl

/-- A PartiallyDecoded row with one nonzero coefficient has it at its pivot. -/
theorem decodedUnit_scannedIf {c : Config} {d : Decoder} {m : Memory} (hwf : PivotsWf c d) (hinv : MatrixInv d m)
    (hunit : DecodedUnit d m) (su dep : Bool) : DecodedUnit { updateCounts (scannedIf su m d) with dep := dep } m := by
  have hscanned : DecodedUnit { d with stat := (scannedIf su m d).stat } m := by
    intro r hr hstat j hj hne
    change statAt (scannedIf su m d) r = .decoded at hstat
    obtain hsame | ⟨hpart, hcount, -⟩ := statAt_scannedIf su m d r
    · exact hunit r hr (hsame.symm.trans hstat) j hj hne
    · have hpiv : pivAt d r = true := (hwf.stored_iff r).2 (by rw [hpart]; exact nofun)
      obtain ⟨hone, -⟩ := hinv.1 r hr hpiv
      by_contra hnz
      exact hne (eq_of_countP_range_eq_one hcount hj hr (decide_eq_true hnz) (decide_eq_true (by rw [hone]; decide)))
  rw [scannedIf_eq]
  exact hscanned

/-! ### The commands -/

/-- A new session has no stored row (R197). -/
theorem matrixInv_initDecoder (c : Config) (f : Field) (o : Operands) (m : Memory) : MatrixInv (initDecoder c f o) m := by
  have hpiv : ∀ r, pivAt (initDecoder c f o) r = false := fun r => pivAt_replicate _ c.nmax r rfl
  refine ⟨fun r _ h => absurd h (Bool.eq_false_iff.1 (hpiv r)), Eq.symm ?_⟩
  exact List.countP_eq_zero.2 fun r _ => Bool.eq_false_iff.1 (hpiv r)

/-- A consume that succeeds. -/
theorem consume_keeps_matrixInv {i : Instr} {f : Field} {s u : State} {l : Latched} (hc : s.config.wellFormed = true)
    (hm : Memory.wf s.memory) (hwf : DecoderWf s.config s.dec) (hi : i = .decConsume f ∨ i = .decConsumeSys f)
    (hpass : checksPass i l s = true) (hbody : commandBody i s l = .ok u) (hinv : MatrixInv s.dec s.memory) :
    MatrixInv u.dec u.memory ∧ (DecodedUnit s.dec s.memory → DecodedUnit u.dec u.memory) := by
  have hpivots := pivotsWf_of_decoderCounts hwf.1
  obtain rfl | ⟨col, x, row, m, hcol, hfree, hrow, hrows, rfl⟩ := consume_effect hc hm hwf hi hpass hbody
  · exact ⟨(matrixInv_committed_iff _ _ _ _ _).2 hinv, fun hunit => decodedUnit_scannedIf hpivots hinv hunit _ _⟩
  · have hx : x ≠ .missing := by
      cases hrow with
      | reduced =>
        unfold statusOf
        split <;> exact nofun
      | unit => exact nofun
    have hnew := newRow_of_incomingRow hc hinv hfree hrow
    have hinv' := matrixInv_of_insertion hpivots hcol hfree hnew hrows hc hinv hx
    refine ⟨(matrixInv_committed_iff _ _ _ _ _).2 hinv', fun hunit => ?_⟩
    exact decodedUnit_scannedIf (hpivots.insert hcol hfree hx) hinv'
      (decodedUnit_of_insertion hpivots hcol hfree hnew hrows hunit) _ _

/-- Settles O37: by the body of each decoder command that succeeds. -/
theorem successfulDecoderCommandsKeepTheMatrixInvariant :
    Obligations.SuccessfulDecoderCommandsKeepTheMatrixInvariant := by
  intro f i s t l hc hm hwf hl hquiet _ hexec hok
  obtain ⟨u, hpass, hbody, rfl⟩ := exists_body_of_success hl hquiet hexec hok
  refine ⟨fun hi => ?_, fun hi hinv => ?_⟩
  · subst hi
    rw [← Except.ok.inj hbody]
    exact matrixInv_initDecoder _ _ _ _
  · simp only [List.mem_cons, List.not_mem_nil, or_false] at hi
    obtain hi | hi | rfl | rfl := hi
    · exact consume_keeps_matrixInv (u := u) hc hm hwf (.inl hi) hpass hbody hinv
    · exact consume_keeps_matrixInv (u := u) hc hm hwf (.inr hi) hpass hbody hinv
    · obtain ⟨d, hd, hbody⟩ := exists_of_bind_eq_ok hbody
      rw [← Except.ok.inj hbody, eq_of_scan_eq_ok hd]
      exact ⟨hinv, fun hunit =>
        decodedUnit_scannedIf (pivotsWf_of_decoderCounts hwf.1) hinv hunit true s.dec.dep⟩
    · rw [← Except.ok.inj hbody]
      exact ⟨hinv, id⟩

end Sys2Proof.Machine

/-! PROOFS. Soundness of decoding: combinations of true rows are true rows (43_pivot_engine.md R205). -/

namespace Sys2Proof.Machine

/-! ### Sums in the field -/

theorem gfSum_lt {f : Field} {g : Nat → Nat} {n : Nat} (h : ∀ j < n, g j < 2 ^ f.width) : gfSum g n < 2 ^ f.width := by
  induction n with
  | zero => exact Nat.two_pow_pos _
  | succ n ih => exact gfAdd_lt (ih fun j hj => h j (Nat.lt_succ_of_lt hj)) (h n n.lt_succ_self)

/-- A sum is linear in its first factors. -/
theorem gfSum_addMul {c : Config} {f : Field} (hc : c.wellFormed = true) {a b x : Nat → Nat} {g n : Nat}
    (ha : ∀ j < n, a j < 2 ^ f.width) (hb : ∀ j < n, b j < 2 ^ f.width) (hx : ∀ j, x j < 2 ^ f.width) (hg : g < 2 ^ f.width) :
    gfSum (fun j => gfMul c f (gfAdd (a j) (gfMul c f g (b j))) (x j)) n =
      gfAdd (gfSum (fun j => gfMul c f (a j) (x j)) n) (gfMul c f g (gfSum (fun j => gfMul c f (b j) (x j)) n)) := by
  obtain ⟨K, _, _, φ, h⟩ := exists_fieldModel hc f
  have hsum : ∀ {y : Nat → Nat}, (∀ j < n, y j < 2 ^ f.width) → gfSum (fun j => gfMul c f (y j) (x j)) n < 2 ^ f.width :=
    fun hy => gfSum_lt fun j hj => gfMul_lt hc (hy j hj) _
  refine h.inj _ (hsum fun j hj => gfAdd_lt (ha j hj) (gfMul_lt hc hg _)) _
    (gfAdd_lt (hsum ha) (gfMul_lt hc hg _)) ?_
  rw [h.add, h.mul _ _ (hsum hb), h.sum, h.sum, h.sum, Finset.mul_sum, ← Finset.sum_add_distrib]
  refine Finset.sum_congr rfl fun j hj => ?_
  have hj := Finset.mem_range.1 hj
  rw [h.mul _ _ (hx j), h.add, h.mul _ _ (hb j hj), h.mul _ _ (hx j), h.mul _ _ (hx j)]
  ring

/-! ### True rows -/

/-- A row of coefficients and symbol elements that is a combination of the originals `x` (R205). -/
structure TrueRow (c : Config) (d : Decoder) (x : Nat → Nat → Nat) (row : Matrix → Nat → Nat) : Prop where
  lt : ∀ j < d.dn.toNat, row .coef j < 2 ^ d.dfield.width
  sum : ∀ k < symElems d, row .sym k = gfSum (fun j => gfMul c d.dfield (row .coef j) (x j k)) d.dn.toNat

/-- Every stored row is true. -/
theorem consistent_iff (c : Config) (d : Decoder) (m : Memory) (x : Nat → Nat → Nat) :
    Consistent c d m x ↔ ∀ r < d.dn.toNat, pivAt d r = true → TrueRow c d x (entryAt d m · r) :=
  ⟨fun h r hr hpiv => ⟨fun _ _ => entryAt_lt _ _ _ _ _, h r hr hpiv⟩, fun h r hr hpiv => (h r hr hpiv).sum⟩

section
variable {c : Config} {d : Decoder} {x : Nat → Nat → Nat} {row row' : Matrix → Nat → Nat}

theorem TrueRow.congr (h : TrueRow c d x row) (heq : ∀ κ, ∀ j < rowLength d κ, row' κ j = row κ j) :
    TrueRow c d x row' := by
  refine ⟨fun j hj => heq .coef j hj ▸ h.lt j hj, fun k hk => ?_⟩
  rw [heq .sym k hk, h.sum k hk]
  exact gfSum_congr fun j hj => by rw [heq .coef j hj]

variable (hc : c.wellFormed = true) (hx : ∀ j k, x j k < 2 ^ d.dfield.width)
include hc hx

/-- The unit row with the original symbol. -/
theorem trueRow_unit {i : Nat} (hi : i < d.dn.toNat) (hcoef : ∀ j < d.dn.toNat, row .coef j = if j = i then 1 else 0)
    (hsym : ∀ k < symElems d, row .sym k = x i k) : TrueRow c d x row := by
  refine ⟨fun j hj => ?_, fun k hk => ?_⟩
  · rw [hcoef j hj]
    split
    · exact Nat.one_lt_two_pow (width_pos _).ne'
    · exact Nat.two_pow_pos _
  · have hsingle : ∀ j < d.dn.toNat, j ≠ i → gfMul c d.dfield (row .coef j) (x j k) = 0 := fun j hj hne => by
      rw [hcoef j hj, if_neg hne, gfMul_zero_left]
    rw [hsym k hk, gfSum_eq_single hi hsingle, hcoef i hi, if_pos rfl, one_gfMul hc (hx i k)]

/-- A multiple of one true row added to another. -/
theorem TrueRow.addMul {g : Nat} (hg : g < 2 ^ d.dfield.width) (h : TrueRow c d x row) (h' : TrueRow c d x row') :
    TrueRow c d x fun κ j => gfAdd (row κ j) (gfMul c d.dfield g (row' κ j)) := by
  refine ⟨fun j hj => gfAdd_lt (h.lt j hj) (gfMul_lt hc hg _), fun k hk => ?_⟩
  rw [h.sum k hk, h'.sum k hk, gfSum_addMul hc h.lt h'.lt (fun j => hx j k) hg]

/-- A multiple of a true row. -/
theorem TrueRow.mul {g : Nat} (hg : g < 2 ^ d.dfield.width) (h : TrueRow c d x row) :
    TrueRow c d x fun κ j => gfMul c d.dfield g (row κ j) := by
  have hzero : TrueRow c d x fun _ _ => 0 :=
    ⟨fun _ _ => Nat.two_pow_pos _, fun k _ => (gfSum_eq_zero fun j _ => gfMul_zero_left _ _ _).symm⟩
  exact (hzero.addMul hc hx hg h).congr fun κ j _ => (zero_gfAdd _).symm

/-- A true row with multiples of stored rows added. -/
theorem TrueRow.addStored {m : Memory} {fs : Nat → Nat} (hfs : ∀ p < d.dn.toNat, fs p < 2 ^ d.dfield.width)
    (hfree : ∀ p < d.dn.toNat, pivAt d p = false → fs p = 0) (hcons : Consistent c d m x) (h : TrueRow c d x row) :
    TrueRow c d x fun κ j => gfAdd (row κ j) (gfSum (fun p => gfMul c d.dfield (fs p) (entryAt d m κ p j)) d.dn.toNat) := by
  suffices hpartial : ∀ n ≤ d.dn.toNat,
      TrueRow c d x fun κ j => gfAdd (row κ j) (gfSum (fun p => gfMul c d.dfield (fs p) (entryAt d m κ p j)) n) from
    hpartial _ le_rfl
  intro n
  induction n with
  | zero => exact fun _ => h.congr fun κ j _ => gfAdd_zero _
  | succ n ih =>
    intro hn
    have hprev := ih (by omega)
    by_cases hpiv : pivAt d n = true
    · refine (hprev.addMul hc hx (hfs n hn) ((consistent_iff c d m x).1 hcons n hn hpiv)).congr fun κ j _ => ?_
      rw [gfSum, gfAdd, gfAdd, gfAdd, gfAdd, Nat.xor_assoc]
    · refine hprev.congr fun κ j _ => ?_
      rw [gfSum, hfree n hn (Bool.eq_false_iff.2 hpiv), gfMul_zero_left, gfAdd_zero]

/-- A true row inserted and back-substituted. -/
theorem consistent_of_insertion {m m' : Memory} {col : Nat} {st : SymbolStatus} (hlen : col < d.piv.length)
    (hcons : Consistent c d m x) (hrow : TrueRow c d x row)
    (hrows : MatricesAre d (insertedRows c d m col row) m m') : Consistent c (setStat (addPivot d col) col st) m' x := by
  have hafter : ∀ r < d.dn.toNat, (r = col ∨ pivAt d r = true) → TrueRow c d x (entryAt d m' · r) := by
    intro r hr hpiv
    by_cases hrc : r = col
    · subst hrc
      exact hrow.congr fun κ j hj => (hrows.entry κ hr hj).trans (if_pos rfl)
    · have hpiv := hpiv.resolve_left hrc
      refine (((consistent_iff c d m x).1 hcons r hr hpiv).addMul hc hx (coefAt_lt d m r col) hrow).congr fun κ j hj => ?_
      rw [hrows.entry κ hr hj, insertedRows, if_neg hrc, if_pos hpiv]
  intro r hr hpiv
  have hpivAt : pivAt (setStat (addPivot d col) col st) r = if r = col then true else pivAt d r :=
    pivAt_addPivot d col r hlen
  rw [hpivAt] at hpiv
  refine (hafter r hr ?_).sum
  by_cases hrc : r = col
  · exact .inl hrc
  · exact .inr (by rwa [if_neg hrc] at hpiv)

end

/-! ### The consumes -/

/-- The pair that a consume is given: its vector and its symbol. -/
def incomingPair (d : Decoder) (m : Memory) (v : List Nat) (sp : Nat) : Matrix → Nat → Nat
  | .coef => fun j => v.getD j 0
  | .sym => fun k => elemAt d.dfield m (sp + k * d.dfield.bytes)

section
variable {c : Config} {d : Decoder} {m : Memory} {x : Nat → Nat → Nat} (hc : c.wellFormed = true)
  (hx : ∀ j k, x j k < 2 ^ d.dfield.width) (hcons : Consistent c d m x)
include hc hx hcons

/-- A true pair, reduced and normalised, is a true row. -/
theorem trueRow_normalised {v w fs : List Nat} {col sp : Nat} (hlen : v.length = d.dn.toNat)
    (hv : ∀ j, v.getD j 0 < 2 ^ d.dfield.width) (hforward : forward c d m v = .ok (w, fs))
    (hpair : TrueRow c d x (incomingPair d m v sp)) : TrueRow c d x (normalisedRow c d m col w fs sp) := by
  have hfactor := fun {p} (hp : p < d.dn.toNat) => forward_factor hlen hforward hp
  have hfs : ∀ p < d.dn.toNat, fs.getD p 0 < 2 ^ d.dfield.width := by
    intro p hp
    rw [hfactor hp, pivotFactor]
    split
    · exact gfDiv_lt hc (reduction_lt hc hv _ _) _
    · exact Nat.two_pow_pos _
  have hfree := fun p hp hpiv => forward_factor_of_not_stored hlen hforward (p := p) hp hpiv
  refine ((hpair.addStored hc hx hfs hfree hcons).mul hc hx (gfInv_lt hc (w.getD col 0))).congr fun κ j hj => ?_
  cases κ with
  | coef =>
    dsimp only [normalisedRow]
    rw [forward_vector hlen hforward hj, reduction_eq_sum]
    refine congrArg (gfMul c d.dfield _) (congrArg (gfAdd _) (gfSum_congr fun p hp => ?_))
    rw [hfactor hp]
    rfl
  | sym => rfl

end

/-- The row that a consume of a true pair inserts is true. -/
theorem trueRow_of_incomingRow {i : Instr} {s : State} {l : Latched} {col : Nat} {st : SymbolStatus}
    {row : Matrix → Nat → Nat} {x : Nat → Nat → Nat} (hc : s.config.wellFormed = true)
    (hx : ∀ j k, x j k < 2 ^ s.dec.dfield.width) (hcons : Consistent s.config s.dec s.memory x)
    (hstored : ∀ f, i = .decConsume f → ∀ k < symElems s.dec,
      elemAt s.dec.dfield s.memory (l.ops.a1.toNat + k * s.dec.dfield.bytes) =
        gfSum (fun j => gfMul s.config s.dec.dfield
          (elemAt s.dec.dfield s.memory (l.ops.a0.toNat + j * s.dec.dfield.bytes)) (x j k)) s.dec.dn.toNat)
    (hunit : ∀ f, i = .decConsumeSys f → l.ops.a0.toNat < s.dec.dn.toNat ∧ ∀ k < symElems s.dec,
      elemAt s.dec.dfield s.memory (l.ops.a1.toNat + k * s.dec.dfield.bytes) = x l.ops.a0.toNat k)
    (hrow : IncomingRow i s l col st row) : TrueRow s.config s.dec x row := by
  cases hrow with
  | @reduced v w fs _ hv hforward _ =>
    refine trueRow_normalised hc hx hcons hv.length_eq hv.getD_lt hforward ?_
    cases hv with
    | @stored f hi =>
      refine ⟨fun j _ => (IncomingVector.stored hi).getD_lt j, fun k hk => (hstored f hi k hk).trans ?_⟩
      exact gfSum_congr fun j hj => by
        dsimp only [incomingPair, vectorAt]
        rw [getD_map_range hj]
    | @unit f hi =>
      obtain ⟨hlt, hsym⟩ := hunit f hi
      exact trueRow_unit hc hx hlt (fun j hj => getD_map_range hj _) hsym
  | @unit f hi =>
    obtain ⟨hlt, hsym⟩ := hunit f hi
    exact trueRow_unit hc hx hlt (fun _ _ => rfl) hsym

/-- Settles O38: a discarded pair changes no row, an inserted one is a true row and so are its multiples added to
others. -/
theorem consumingTruePairsKeepsTheRowsTrue : Obligations.ConsumingTruePairsKeepsTheRowsTrue := by
  intro i s t l x f hc hm hwf hx hl hquiet _ hcons hpair hexec hok
  obtain ⟨u, hpass, hbody, rfl⟩ := exists_body_of_success hl hquiet hexec hok
  have hi : i = .decConsume f ∨ i = .decConsumeSys f := hpair.imp And.left And.left
  have hcommitted : ∀ (su dep : Bool) (m m' : Memory) (d : Decoder), Consistent s.config d m' x →
      Consistent s.config { updateCounts (scannedIf su m d) with dep := dep } m' x := by
    intro su dep m m' d h
    rw [scannedIf_eq]
    exact h
  obtain rfl | ⟨col, st, row, m, hcol, -, hrow, hrows, rfl⟩ := consume_effect hc hm hwf hi hpass hbody
  · exact hcommitted _ _ _ _ _ hcons
  · obtain ⟨⟨hpivlen, -, hdn, -⟩, -⟩ := hwf
    have htrue : TrueRow s.config s.dec x row := by
      refine trueRow_of_incomingRow hc hx hcons (fun f' hf => ?_) (fun f' hf => ?_) hrow
      · obtain ⟨-, h⟩ | ⟨hsys, -⟩ := hpair
        · exact h
        · exact nomatch hsys.symm.trans hf
      · obtain ⟨hvec, -⟩ | ⟨hsys, h⟩ := hpair
        · exact nomatch hvec.symm.trans hf
        · exact ⟨index_lt_of_checksPass (hsys ▸ hpass), h⟩
    exact hcommitted _ _ _ _ _ (consistent_of_insertion hc hx (by omega) hcons htrue hrows)

end Sys2Proof.Machine

/-! PROOFS. A duplicate systematic symbol under the eliminate policy is the consume of its unit vector (43_pivot_engine.md
R200, 90_conflicts.md C3). -/

namespace Sys2Proof.Machine

section
variable {s : State} {l : Latched} {e : Engine}

/-- CONSUME_ROW depends on the engine's state and the latched operands only through SU: the two runs differ in the engine
state they carry. -/
theorem consumeRow_withEngine {l' : Latched} (hsu : l'.su = l.su) {v : List Nat} (hv : v.length ≤ s.dec.dn.toNat)
    (sp : Nat) :
    EndAlike (fun u u' => u' = { u with eng := e }) (consumeRow s l v sp) (consumeRow { s with eng := e } l' v sp) := by
  have hall : MatricesIn (fun _ => True) s.dec := ⟨fun _ _ _ _ => trivial, fun _ _ _ _ => trivial⟩
  have halike := (memSim_eq s.config).consumeRow_alike (m' := s.memory) (l := l) (l' := l') s.ops s.ctrl e hall hall rfl
    (sp := sp) (fun _ _ _ _ => trivial) hsu hv
  cases hx : consumeRow s l v sp with
  | error err =>
    rw [hx] at halike
    rw [show consumeRow { s with eng := e } l' v sp = .error err from halike.error_eq rfl]
    rfl
  | ok u =>
    rw [hx] at halike
    obtain ⟨u', hu', heq, hmem⟩ := halike.exists_ok rfl
    rw [show consumeRow { s with eng := e } l' v sp = .ok u' from hu']
    have hkept := consumeRow_changesOnlyResults hx
    unfold ChangesOnlyResults at hkept
    have hops : u.ops = s.ops := by rw [hkept]
    have hctrl : u.ctrl = s.ctrl := by rw [hkept]
    change u' = { u with eng := e }
    rw [heq, ← hmem, ← hops, ← hctrl]

/-- Two consumes whose bodies differ in the engine state only end in one state. -/
theorem conclude_withEngine {f : Field} {o : Operands} {x x' : Except ErrorCode State}
    (h : EndAlike (fun u u' => u' = { u with eng := e }) x x') (hpass : checksPass (.decConsumeSys f) l s = true)
    (hpass' : checksPass (.decConsume f) { l with ops := o } { s with eng := e } = true)
    (hquiet : disturbed (.decConsumeSys f) l s = false)
    (hquiet' : disturbed (.decConsume f) { l with ops := o } { s with eng := e } = false) :
    conclude (.decConsumeSys f) l s x = conclude (.decConsume f) { l with ops := o } { s with eng := e } x' := by
  cases x with
  | ok u =>
    obtain ⟨u', rfl, rfl⟩ := h.exists_ok rfl
    simp only [conclude, disturb_of_undisturbed hquiet, disturb_of_undisturbed hquiet']
    rfl
  | error err =>
    rw [h.error_eq rfl]
    cases err with
    | bus =>
      simp only [conclude, writesOf, if_pos hpass, if_pos hpass']
      rfl
    | _ =>
      simp only [conclude, disturb_of_undisturbed hquiet, disturb_of_undisturbed hquiet']
      rfl

end

/-- Settles O36: both bodies reduce the unit vector, and the two ends differ in what they latch only. -/
theorem duplicateSystematicSymbolIsConsumedAsItsUnitVector :
    Obligations.DuplicateSystematicSymbolIsConsumedAsItsUnitVector := by
  intro s l cv f l' s' hl hpass hpass' hquiet hquiet' hmap hpiv hdup hunit
  simp only [allMapped_cons, allMapped_nil, and_true] at hmap
  have hvector : vectorAt s'.dec s'.memory l'.ops.a0.toNat = unitVector s.dec.dn.toNat l.ops.a0.toNat :=
    List.map_congr_left fun j hj => hunit j (List.mem_range.1 hj)
  have hbody : commandBody (.decConsumeSys f) s l =
      consumeRow s l (unitVector s.dec.dn.toNat l.ops.a0.toNat) l.ops.a1.toNat := by
    rw [commandBody, consumeUnit, if_pos hpiv, if_pos hdup]
  have hbody' : commandBody (.decConsume f) s' l' =
      consumeRow s' l' (unitVector s.dec.dn.toNat l.ops.a0.toNat) l.ops.a1.toNat := by
    rw [commandBody_decConsume (s := s') hmap, hvector]
  rw [exec_eq_commandBody, exec_eq_commandBody]
  simp only [runCommand, hl, show s'.eng = .busy l' from rfl, firstError_of_checksPass hpass,
    firstError_of_checksPass hpass', hbody, hbody']
  exact congrArg Host.Outcome.next (conclude_withEngine
    (consumeRow_withEngine rfl (unitVector_length _ _).le _) hpass hpass' hquiet hquiet')

end Sys2Proof.Machine
